-- ==== Sys2Proof/Word.lean ====
section
/-! DEFINITION. The word types: what the spec gives a width (00_scope.md R10, R12). -/

namespace Sys2Proof

/-- A byte on the wire, a command result, a shift register: 8 bits (R10). -/
abbrev Byte := BitVec 8

/-- A command argument: 32 bits (R10). -/
abbrev Arg := BitVec 32

/-- A host request word: 64 bits (30_encoding.md R80). -/
abbrev Request := BitVec 64

/-- A response word, and the STATUS word: 16 bits (30_encoding.md R86, 10_state.md R49). -/
abbrev Half := BitVec 16

/-- The filler byte 0xFF (00_scope.md R18, 40_transport.md R120). -/
abbrev filler : Byte := 0xFF#8

end Sys2Proof
end

