-- ==== Sys2Proof/Machine/Event.lean ====
section
/-! DEFINITION. The pins and the events of the history (10_state.md R30, 20_memory.md R68). -/

namespace Sys2Proof.Machine

/-- The three output pins (R30). -/
inductive OutPin where
  | csN
  | sclk
  | mosi
  deriving DecidableEq, Repr

/-- The two input pins (R30). -/
inductive InPin where
  | miso
  | xferDone
  deriving DecidableEq, Repr

/-- The two waits (00_scope.md R15, 60_exceptions.md R223). -/
inductive Wait where
  | settle
  | backoff
  deriving DecidableEq, Repr

/-- The diagnostic events (60_exceptions.md R229). -/
inductive Diag where
  /-- `DiagCmd(b)`: the command byte. -/
  | cmd (b : Byte)
  /-- `DiagResp(b)`: one byte of the response window. -/
  | resp (b : Byte)
  /-- `DiagEnd`: the end of one command. -/
  | done
  /-- `DiagBlockLen(b)`: the SET_BLOCKLEN result. -/
  | blocklen (b : Byte)
  deriving DecidableEq, Repr

/-- One event of the history (R68); `reset` is the event of 70_reset_and_hazards.md R240. -/
inductive Event where
  | accept (w : Request)
  | pin (p : OutPin) (v : Bool)
  | sample (p : InPin) (v : Bool)
  | delay (k : Wait)
  | diag (d : Diag)
  | complete (r : Half)
  | reset
  deriving DecidableEq, Repr

end Sys2Proof.Machine
end

