-- ==== Sys2Proof/Config.lean ====
section
/-! DEFINITION. The configuration record of 00_scope.md R9 and the free values. -/

namespace Sys2Proof

/-- T_SETTLE is OPEN: the source gives no value (R9, 40_transport.md R123). Log 4. -/
opaque Config.openSettle : Nat

/-- DIAG_ENABLE is OPEN, either value (R9). Log 4. -/
opaque Config.openDiag : Bool

/-- The level of an input sample nothing in the state determines: the environment oracle of 20_memory.md R66, which "may
depend on the whole event history". Log 5. -/
opaque Config.freeLevel : Machine.InPin → List Machine.Event → Bool

/-- An unspecified 8-bit register value (40_transport.md R118, 10_state.md R41). Log 8. -/
opaque Config.freeByte : Nat → Byte

/-- An unspecified 32-bit register value (10_state.md R41). Log 8. -/
opaque Config.freeArg : Nat → Arg

/-- An unspecified frame index (10_state.md R41). Log 8. -/
opaque Config.freeIndex : Nat → Fin 6

/-- The configuration record (R9), fixed for a model instance; the defaults are the source's literals. -/
structure Config where
  /-- `PREFIX_BYTES`, 0..255. -/
  prefixBytes : Byte := 10
  /-- `IDLE_RETRY_LIMIT`, 1..15. -/
  idleRetryLimit : BitVec 4 := 10
  /-- `OPCOND_RETRY_LIMIT`, 1..15. -/
  opcondRetryLimit : BitVec 4 := 10
  /-- `T_BACKOFF` in milliseconds; no rule reads it (70_reset_and_hazards.md R258). -/
  tBackoff : Nat := 100
  /-- `T_SETTLE`; no rule reads it (R258). -/
  tSettle : Nat := Config.openSettle
  /-- `WIN_IDLE`. -/
  winIdle : Byte := 8
  /-- `WIN_OPCOND`. -/
  winOpcond : Byte := 8
  /-- `WIN_BLOCKLEN`. -/
  winBlocklen : Byte := 8
  /-- `CRC_IDLE`. -/
  crcIdle : Byte := 0x95
  /-- `CRC_OPCOND`. -/
  crcOpcond : Byte := 0xFF
  /-- `CRC_BLOCKLEN`. -/
  crcBlocklen : Byte := 0xFF
  /-- `BLOCK_LEN`. -/
  blockLen : Arg := 512
  /-- `POLL_LIMIT`: NONE, or a bound of at least 1. -/
  pollLimit : Option Nat := none
  /-- `BLOCKLEN_CHECK`. -/
  blocklenCheck : Bool := false
  /-- `DIAG_ENABLE`. -/
  diagEnable : Bool := Config.openDiag
  deriving DecidableEq, Repr

/-- What the record's types leave to check: the retry limits are at least 1 and a poll limit is at least 1 (R9). -/
def Config.valid (c : Config) : Bool :=
  c.idleRetryLimit ≠ 0 && c.opcondRetryLimit ≠ 0 && c.pollLimit ≠ some 0

end Sys2Proof
end

