-- ==== Sys2Proof/Syntax.lean ====
section
/-! DEFINITION. The instructions: one constructor per row of the opcode table (30_encoding.md R81, R97). -/

namespace Sys2Proof

/-- A host request as the assembler names it.
The first six constructors are the six requests of R81, with the operands of R85 and R87.
The last four are the table's pseudo-instructions (R97): exact words of a core request, which a decoder must not treat
as opcodes of their own (INDEX.md). -/
inductive Instr where
  /-- R111: configure the bus lines. -/
  | initBus
  /-- R112: assert chip-select. -/
  | select
  /-- R113: release chip-select. -/
  | deselect
  /-- R114: one raw full-duplex byte exchange, sending `out`. -/
  | xchg (out : Byte)
  /-- R140: send one command frame and scan its response window. -/
  | sendCmd (cmd : Byte) (arg : Arg) (crc win : Byte)
  /-- R170: bring the card from power-on to SPI-ready. -/
  | cardInit
  /-- R97: `XCHG 0xFF`. -/
  | fill
  /-- R97: `SEND_CMD 0x40, 0, 0x95, 8`. -/
  | goIdleState
  /-- R97: `SEND_CMD 0x41, 0, 0xFF, 8`. -/
  | sendOpCond
  /-- R97: `SEND_CMD 0x50, n, 0xFF, 8`. -/
  | setBlocklen (n : Arg)
  deriving DecidableEq, Repr

end Sys2Proof
end

