-- ==== Sys2Proof/WellFormed.lean ====
section
/-! DEFINITION. Which instructions are machine requests. -/

namespace Sys2Proof

/-- The instructions a request word can decode to: the six requests of 30_encoding.md R90.
Every operand fits its field by its type (R85, R87); what is left to check is that the instruction is a request of the
opcode map and not a pseudo-instruction, which must be expanded before it is one (R97, INDEX.md: "A decoder must not treat
them as opcodes"). -/
def Instr.wellFormed : Instr → Bool
  | .initBus => true
  | .select => true
  | .deselect => true
  | .xchg _ => true
  | .sendCmd _ _ _ _ => true
  | .cardInit => true
  | .fill => false
  | .goIdleState => false
  | .sendOpCond => false
  | .setBlocklen _ => false

end Sys2Proof
end

