-- ==== Sys2Proof/Decode.lean ====
section
/-! DEFINITION. Request words: the decoder, total on every word and refusing by name (30_encoding.md R80 to R91), then the
encoder, then the opcode table as masks and patterns. -/

namespace Sys2Proof

/-- Why a word is no request (30_encoding.md R88 steps 1 and 2). Both are raised as ILLEGAL. -/
inductive Reject where
  /-- Opcode 0x00 or 0x07..0xFF (R89). -/
  | reservedOpcode (op : Byte)
  /-- A legal opcode with an operand bit set that its format reserves (R83, R85). -/
  | reservedBits (op : Byte)
  deriving DecidableEq, Repr

/-- `w[63:56]` (R80). -/
def opcodeField (w : Request) : Byte := w.extractLsb' 56 8

/-- `CMD = w[55:48]` (R87). -/
def cmdField (w : Request) : Byte := w.extractLsb' 48 8

/-- `ARG = w[47:16]` (R87). -/
def argField (w : Request) : Arg := w.extractLsb' 16 32

/-- `CRC = w[15:8]` (R87). -/
def crcField (w : Request) : Byte := w.extractLsb' 8 8

/-- `WIN = w[7:0]` (R87), and `OUT = w[7:0]` (R85). -/
def lowField (w : Request) : Byte := w.extractLsb' 0 8

/-- Format N reserves `w[55:0]` (R83). -/
def reservedN (w : Request) : BitVec 56 := w.extractLsb' 0 56

/-- Format X reserves `w[55:8]` (R85). -/
def reservedX (w : Request) : BitVec 48 := w.extractLsb' 8 48

/-- A format N request: no operand, every operand bit 0 (R83). -/
def decodeN (i : Instr) (w : Request) : Except Reject Instr :=
  if reservedN w = 0 then .ok i else .error (.reservedBits (opcodeField w))

/-- The format X request: `OUT` in the low byte, the bits above it 0 (R85). -/
def decodeX (w : Request) : Except Reject Instr :=
  if reservedX w = 0 then .ok (.xchg (lowField w)) else .error (.reservedBits (opcodeField w))

/-- The format C request: every operand bit is an operand (R87, R89). -/
def decodeC (w : Request) : Instr :=
  .sendCmd (cmdField w) (argField w) (crcField w) (lowField w)

/-- The opcode map (R81), reserved bits checked after the opcode (R88 steps 1 and 2). -/
def decode (w : Request) : Except Reject Instr :=
  if opcodeField w = 0x01#8 then decodeN .initBus w
  else if opcodeField w = 0x02#8 then decodeN .select w
  else if opcodeField w = 0x03#8 then decodeN .deselect w
  else if opcodeField w = 0x04#8 then decodeX w
  else if opcodeField w = 0x05#8 then .ok (decodeC w)
  else if opcodeField w = 0x06#8 then decodeN .cardInit w
  else .error (.reservedOpcode (opcodeField w))

/-- What a pseudo-instruction stands for (R97); a core request stands for itself. -/
def Instr.expand : Instr → Instr
  | .initBus => .initBus
  | .select => .select
  | .deselect => .deselect
  | .xchg out => .xchg out
  | .sendCmd cmd arg crc win => .sendCmd cmd arg crc win
  | .cardInit => .cardInit
  | .fill => .xchg 0xFF#8
  | .goIdleState => .sendCmd 0x40#8 0#32 0x95#8 8#8
  | .sendOpCond => .sendCmd 0x41#8 0#32 0xFF#8 8#8
  | .setBlocklen n => .sendCmd 0x50#8 n 0xFF#8 8#8

/-- The opcode of an instruction's word (R81, R97). -/
def Instr.opcode : Instr → Byte
  | .initBus => 0x01#8
  | .select => 0x02#8
  | .deselect => 0x03#8
  | .xchg _ => 0x04#8
  | .sendCmd _ _ _ _ => 0x05#8
  | .cardInit => 0x06#8
  | .fill => 0x04#8
  | .goIdleState => 0x05#8
  | .sendOpCond => 0x05#8
  | .setBlocklen _ => 0x05#8

/-- A format N word (R80). -/
def encodeN (op : Byte) : Request := op ++ 0#56

/-- A format X word (R80). -/
def encodeX (op out : Byte) : Request := op ++ 0#48 ++ out

/-- A format C word (R80). -/
def encodeC (op cmd : Byte) (arg : Arg) (crc win : Byte) : Request := op ++ cmd ++ arg ++ crc ++ win

/-- The one request word an instruction assembles to, reserved bits 0 (R80, R96, R97). -/
def encode : Instr → Request
  | .initBus => encodeN 0x01#8
  | .select => encodeN 0x02#8
  | .deselect => encodeN 0x03#8
  | .xchg out => encodeX 0x04#8 out
  | .sendCmd cmd arg crc win => encodeC 0x05#8 cmd arg crc win
  | .cardInit => encodeN 0x06#8
  | .fill => 0x04000000000000FF#64
  | .goIdleState => 0x0540000000009508#64
  | .sendOpCond => 0x054100000000FF08#64
  | .setBlocklen n => 0x0550#16 ++ n ++ 0xFF08#16

/-- The decoder read through the opcode table's numbering of bits: a request is exactly one 64-bit word (R91), whose bit
numbers are the table's. R91 knows no other length. DESIGN CHOICE (log 18): a shorter bit string is read as the 64-bit word with
its missing high bits 0, so it can decode to a request, and a longer one is no request. -/
def decodeTableWord (nbits w : Nat) : Option Instr :=
  if nbits ≤ 64 then (decode (BitVec.ofNat 64 (w % 2 ^ nbits))).toOption else none

/-- A row of the opcode table. -/
structure TableRow where
  mask : Request
  pattern : Request
  deriving DecidableEq, Repr

/-- A word matches a row when its masked bits are the row's pattern. -/
def TableRow.accepts (r : TableRow) (w : Request) : Bool := w &&& r.mask = r.pattern

/-- The first six rows of the opcode table, "the decoder" (INDEX.md), in its order. -/
def decoderTable : List TableRow :=
  [ ⟨0xFFFFFFFFFFFFFFFF#64, 0x0100000000000000#64⟩,
    ⟨0xFFFFFFFFFFFFFFFF#64, 0x0200000000000000#64⟩,
    ⟨0xFFFFFFFFFFFFFFFF#64, 0x0300000000000000#64⟩,
    ⟨0xFFFFFFFFFFFFFF00#64, 0x0400000000000000#64⟩,
    ⟨0xFF00000000000000#64, 0x0500000000000000#64⟩,
    ⟨0xFFFFFFFFFFFFFFFF#64, 0x0600000000000000#64⟩ ]

end Sys2Proof
end

