-- ==== Sys2Proof/Machine/State.lean ====
section
/-! DEFINITION. The state (10_state.md), its reset value (R50), and the reasons a step can stop. -/

namespace Sys2Proof.Machine

/-- The level of an output pin (10_state.md R31). -/
inductive Level where
  /-- Driven to 0 (`false`) or 1 (`true`). -/
  | driven (v : Bool)
  /-- Z: not driven, the level on the wire is unknown. -/
  | z
  deriving DecidableEq, Repr

/-- The phase of the exchange engine (10_state.md R36): `E_IDLE`, `E_SETTLE`, `E_POLL`. -/
inductive Engine where
  | idle
  | settle
  | poll
  deriving DecidableEq, Repr

/-- The request-level sequencer (10_state.md R42). `busy` carries `req[63:56]`, as acceptance writes it (30_encoding.md R82). -/
inductive Ctl where
  | idle
  | busy (op : Byte)
  deriving DecidableEq, Repr

/-- The card initialiser's state (10_state.md R43). -/
inductive InitPhase where
  | uninit
  | prefixClocking
  | idleCmd
  | idleBackoff
  | opcondCmd
  | opcondBackoff
  | blocklen
  | ready
  | failed
  deriving DecidableEq, Repr

/-- A command value (41_command_channel.md R141). -/
structure Command where
  cmd : Byte
  arg : Arg
  crc : Byte
  win : Byte
  deriving DecidableEq, Repr

/-- The command channel's registers (10_state.md R38 to R40). -/
structure Channel where
  fCmd : Byte
  fArg : Arg
  fCrc : Byte
  fWin : Byte
  frameIdx : Fin 6
  winLeft : Byte
  scanLast : Byte
  deriving DecidableEq, Repr

/-- Who called `SendCommand` (41_command_channel.md R143): SEND_CMD, or a phase of the initialiser (42_card_init.md R171). -/
inductive Caller where
  | host
  | idle
  | opcond
  | blocklen
  deriving DecidableEq, Repr

/-- Who called `Exchange` (40_transport.md R115): XCHG, the prefix, a command's frame, a command's window. -/
inductive Site where
  | raw
  | prefixByte
  | frame (c : Caller)
  | window (c : Caller)
  deriving DecidableEq, Repr

/-- The next primitive inside a bit of an exchange, after its MOSI write (40_transport.md R116 to R118). -/
inductive XferStep where
  /-- `PinWrite(SCLK, 1)` comes next. -/
  | rise
  /-- `Delay(SETTLE)` comes next. -/
  | settle
  /-- The bit's first `PinRead(XFER_DONE)` comes next. -/
  | poll
  /-- `XFER_DONE` read 0: count it, then poll again or give up. -/
  | repoll
  /-- `PinRead(MISO)` comes next. -/
  | sample
  /-- `PinWrite(SCLK, 0)` comes next. -/
  | fall
  deriving DecidableEq, Repr

/-- A place between two primitives of a running request's pseudocode, named by what has just happened. Log 3. -/
inductive Seg where
  /-- INIT_BUS (R111): `CS_N` is written. -/
  | initSclk
  /-- INIT_BUS: `SCLK` is written. -/
  | initMosi
  /-- INIT_BUS: `MOSI` is written. -/
  | initDone
  /-- SELECT or DESELECT (R112, R113): `CS_N` is written. -/
  | acknowledge
  /-- Inside a bit of an exchange (R116). -/
  | xfer (x : XferStep) (site : Site)
  /-- The bit's `SCLK` is back at 0 (R116). -/
  | fallen (site : Site)
  /-- The poll limit ran out and `SCLK` is back at 0 (R118). -/
  | timedOut (site : Site)
  /-- `DiagCmd` is emitted (R143 step 1). -/
  | announced (c : Caller)
  /-- `CS_N` is asserted (R143 step 2). -/
  | selected (c : Caller)
  /-- `DiagResp` is emitted for the window byte in `rx_sr` (R143 step 4). -/
  | mirrored (c : Caller)
  /-- `CS_N` is released (R143 step 5). -/
  | released (c : Caller)
  /-- `DiagEnd` is emitted (R143). -/
  | ended (c : Caller)
  /-- A timed-out command has released `CS_N` (R143, on Timeout). -/
  | aborted (c : Caller)
  /-- CARD_INIT has driven `CS_N` to 1 (R185, R174). -/
  | prefixStart
  /-- The idle loop's backoff is over (R177). -/
  | idleBackedOff
  /-- The op-cond loop's backoff is over (R177). -/
  | opcondBackedOff
  /-- `DiagBlockLen(r)` is emitted (R194). -/
  | reported (r : Byte)
  /-- CARD_INIT's timeout handler has released `CS_N` (R188). -/
  | abandoned
  deriving DecidableEq, Repr

/-- Where the running request stands. -/
inductive Point where
  /-- Accepted, nothing done yet: the admission check is next (30_encoding.md R88). Also the value while idle. -/
  | start
  | within (g : Seg)
  deriving DecidableEq, Repr

/-- What the environment supplies on an input pin (20_memory.md R66): the scripted samples, then a steady level, or a free
value where there is neither. Log 5. -/
structure Line where
  script : List Bool
  steady : Option Bool
  deriving DecidableEq, Repr

/-- The machine's state. The fields down to `respValid` are 10_state.md's; `trace` is the event history of 20_memory.md R68,
newest event first; the rest are the model's own (logs 3 to 8). -/
structure State where
  /-- `CS_N` (R30 to R32). -/
  csN : Level
  /-- `SCLK` (R30). -/
  sclk : Level
  /-- `MOSI` (R30). -/
  mosi : Level
  /-- `configured` (R33). -/
  configured : Bool
  /-- `tx_sr` (R34). -/
  txSr : Byte
  /-- `rx_sr` (R35). -/
  rxSr : Byte
  /-- `bit_idx` (R36). -/
  bitIdx : Fin 8
  /-- `eng` (R36). -/
  eng : Engine
  /-- `poll_cnt` (R37). -/
  pollCnt : Nat
  /-- `f_cmd`, `f_arg`, `f_crc`, `f_win`, `frame_idx`, `win_left`, `scan_last` (R38 to R40). -/
  chan : Channel
  /-- `ctl` (R42), and with it `busy` (R47). -/
  ctl : Ctl
  /-- The place in the running request's pseudocode (log 3). -/
  point : Point
  /-- `init_phase` (R43). -/
  initPhase : InitPhase
  /-- `prefix_left` (R44). -/
  prefixLeft : Byte
  /-- `attempt` (R45). -/
  attempt : BitVec 4
  /-- `outcome` (R46). -/
  outcome : Byte
  /-- `outcome_valid` (R46). -/
  outcomeValid : Bool
  /-- `req` (R47). -/
  req : Request
  /-- `resp` (R48). -/
  resp : Half
  /-- `resp_valid` (R48). -/
  respValid : Bool
  /-- The event history, newest first (20_memory.md R68). -/
  trace : List Event
  /-- The configuration record (00_scope.md R9), which no step writes (log 4). -/
  cfg : Config
  /-- The environment's supply for `MISO` (log 5). -/
  miso : Line
  /-- The environment's supply for `XFER_DONE` (log 5). -/
  xferDone : Line
  /-- The words the host has still to present, the next first (log 6). -/
  host : List Request
  /-- The platform asserts reset (log 7). -/
  resetLine : Bool
  /-- How many free values have been drawn (log 8). -/
  freeCount : Nat
  deriving DecidableEq, Repr

/-- The block raises no trap (60_exceptions.md R210): every failure is a response or a run that never ends, so no step stops
with a fault and this type has no constructor (safe: nothing is claimed of a stopped machine). -/
inductive Fault where
  deriving DecidableEq, Repr

/-- Why a step has no meaning. -/
inductive Refusal where
  /-- Raised by an arm of `exec` whose instruction has no meaning yet; no arm is left that does (safe). -/
  | notModelled (mnemonic : String)
  deriving DecidableEq, Repr

/-- What a meaning answers. -/
abbrev Result := Host.Outcome State Fault Refusal

/-- The channel registers at reset: unspecified in R50, zero here (log 1). -/
def Channel.reset : Channel :=
  { fCmd := 0, fArg := 0, fCrc := 0, fWin := 0, frameIdx := 0, winLeft := 0, scanLast := 0 }

/-- The machine right after reset (10_state.md R50, 70_reset_and_hazards.md R240), with the default configuration of
00_scope.md R9 and an environment, a host and a platform that have supplied nothing.
Power-on is a reset event too, and the history has recorded it (R240).
The registers R50 leaves unspecified hold zero (log 1). -/
def State.reset : State where
  csN := .z
  sclk := .z
  mosi := .z
  configured := false
  txSr := 0
  rxSr := 0
  bitIdx := 0
  eng := .idle
  pollCnt := 0
  chan := Channel.reset
  ctl := .idle
  point := .start
  initPhase := .uninit
  prefixLeft := 0
  attempt := 0
  outcome := 0
  outcomeValid := false
  req := 0
  resp := 0
  respValid := false
  trace := [.reset]
  cfg := {}
  miso := ⟨[], none⟩
  xferDone := ⟨[], none⟩
  host := []
  resetLine := false
  freeCount := 0

end Sys2Proof.Machine
end

