-- ==== Sys2Proof/Machine/Flags.lean ====
section
/-! DEFINITION. The block has no condition flags (10_state.md R48); its status values are the response word
(30_encoding.md R86), the outcome code (60_exceptions.md R237) and the STATUS word (10_state.md R49). -/

namespace Sys2Proof.Machine

/-- The response statuses (30_encoding.md R86). -/
inductive Status where
  | ok
  | illegal
  | notConfigured
  | timeout
  deriving DecidableEq, Repr

/-- The code of a response status (R86). -/
def Status.code : Status → Byte
  | .ok => 0x00#8
  | .illegal => 0x01#8
  | .notConfigured => 0x02#8
  | .timeout => 0x03#8

/-- `resp = status ++ data` (R86). -/
def response (st : Status) (data : Byte) : Half := st.code ++ data

/-- The outcomes of CARD_INIT (60_exceptions.md R237). -/
inductive InitOutcome where
  /-- `Ready`. -/
  | ready
  /-- `Failed(-1)`. -/
  | idleExhausted
  /-- `Failed(-2)`. -/
  | opcondExhausted
  /-- `Failed(-3)`, only with `BLOCKLEN_CHECK`. -/
  | blocklenRejected
  /-- `Failed(-4)`, only with a poll limit. -/
  | timedOut
  deriving DecidableEq, Repr

/-- The signed outcome code (R237). -/
def InitOutcome.code : InitOutcome → Int
  | .ready => 0
  | .idleExhausted => -1
  | .opcondExhausted => -2
  | .blocklenRejected => -3
  | .timedOut => -4

/-- The code's data byte, 8-bit two's complement (R237). -/
def InitOutcome.byte (o : InitOutcome) : Byte := BitVec.ofInt 8 o.code

/-- The terminal phase of an outcome (42_card_init.md R172). -/
def InitOutcome.phase : InitOutcome → InitPhase
  | .ready => .ready
  | .idleExhausted => .failed
  | .opcondExhausted => .failed
  | .blocklenRejected => .failed
  | .timedOut => .failed

/-- The 4-bit encoding of `init_phase` (10_state.md R43). -/
def InitPhase.code : InitPhase → BitVec 4
  | .uninit => 0
  | .prefixClocking => 1
  | .idleCmd => 2
  | .idleBackoff => 3
  | .opcondCmd => 4
  | .opcondBackoff => 5
  | .blocklen => 6
  | .ready => 7
  | .failed => 8

/-- `busy` is 1 exactly when `ctl = BUSY(op)` (R47). -/
def State.busy (s : State) : Bool :=
  match s.ctl with
  | .idle => false
  | .busy _ => true

/-- The STATUS field `selected`: `CS_N` is driven 0 (R49). -/
def State.selected (s : State) : Bool := s.csN = .driven false

/-- The STATUS word (R49): reserved bits 15:12, `attempt` 11:8, `init_phase` 7:4, then `resp_valid`, `selected`,
`configured`, `busy`. A host reads it at any time, without a step (20_memory.md R73). -/
def State.status (s : State) : Half :=
  0#4 ++ s.attempt ++ s.initPhase.code ++ BitVec.ofBool s.respValid ++ BitVec.ofBool s.selected
    ++ BitVec.ofBool s.configured ++ BitVec.ofBool s.busy

/-- What a host that keeps its duty reads as the response: `resp` while `resp_valid = 1` (70_reset_and_hazards.md R250). -/
def State.readResponse (s : State) : Option Half := if s.respValid then some s.resp else none

/-- The outcome of the last CARD_INIT that completed, as the signed number a host recovers from it (R237, 10_state.md R46). -/
def State.readOutcome (s : State) : Option Int := if s.outcomeValid then some s.outcome.toInt else none

end Sys2Proof.Machine
end

