-- ==== Sys2Proof/Machine/Operands.lean ====
section
/-! DEFINITION. The operands of the internal operations: the bytes of an argument, the bytes of a frame, the commands of the
initialiser, and single bits of a shift register. -/

namespace Sys2Proof.Machine

/-- `byte_k(a) = a[8k+7:8k]` (00_scope.md R13). -/
def byteOf (k : Nat) (a : Arg) : Byte := a.extractLsb' (8 * k) 8

/-- The frame encoder `FrameByte(k)` (41_command_channel.md R144): the command byte, the argument most significant byte first,
the checksum byte, each as the channel holds it. -/
def Channel.frameByte (ch : Channel) (k : Fin 6) : Byte :=
  match k with
  | 0 => ch.fCmd
  | 1 => byteOf 3 ch.fArg
  | 2 => byteOf 2 ch.fArg
  | 3 => byteOf 1 ch.fArg
  | 4 => byteOf 0 ch.fArg
  | 5 => ch.fCrc

/-- The idle phase's command (42_card_init.md R171). -/
def Command.idle (c : Config) : Command := ⟨0x40#8, 0#32, c.crcIdle, c.winIdle⟩

/-- The op-cond phase's command (R171). -/
def Command.opcond (c : Config) : Command := ⟨0x41#8, 0#32, c.crcOpcond, c.winOpcond⟩

/-- The block-length phase's command (R171). -/
def Command.blocklen (c : Config) : Command := ⟨0x50#8, c.blockLen, c.crcBlocklen, c.winBlocklen⟩

/-- Bit `i` of a shift register, the bit driven on MOSI (40_transport.md R116). -/
def bitOf (v : Byte) (i : Fin 8) : Bool := v.getLsbD i.val

/-- `v` with bit `i` set to `b`: a sampled bit lands in `rx_sr[i]` (R116). -/
def putBit (v : Byte) (i : Fin 8) (b : Bool) : Byte :=
  if b then v ||| (1#8 <<< i.val) else v &&& ~~~(1#8 <<< i.val)

/-- The scanner's update for one window byte (41_command_channel.md R147). -/
def scanStep (acc b : Byte) : Byte := if b = filler then acc else b

end Sys2Proof.Machine
end

