-- ==== Sys2Proof/Machine/Ops.lean ====
section
/-! DEFINITION. The named operations every sequence is written in: the primitives of 00_scope.md R15, the request handshake
of 30_encoding.md R82, raising an error (60_exceptions.md R212) and reset (70_reset_and_hazards.md R240).
The block has no memory (20_memory.md R60), so there is no memory operation. -/

namespace Sys2Proof.Machine

/-- Append an event to the history (20_memory.md R68). -/
def State.record (e : Event) (s : State) : State := { s with trace := e :: s.trace }

/-- The event history in the order the primitives ran (R68). -/
def State.history (s : State) : List Event := s.trace.reverse

/-- Stand at a place of the running request's pseudocode. -/
def State.goto (g : Seg) (s : State) : State := { s with point := .within g }

/-- Set an output pin's level: the one way a level changes (10_state.md R31). -/
def State.setPin (p : OutPin) (v : Bool) (s : State) : State :=
  match p with
  | .csN => { s with csN := .driven v }
  | .sclk => { s with sclk := .driven v }
  | .mosi => { s with mosi := .driven v }

/-- An output pin's level (R31). -/
def State.level (p : OutPin) (s : State) : Level :=
  match p with
  | .csN => s.csN
  | .sclk => s.sclk
  | .mosi => s.mosi

/-- `PinWrite(p, v)` (R15). -/
def pinWrite (p : OutPin) (v : Bool) (s : State) : State := (s.setPin p v).record (.pin p v)

/-- The next sample a line supplies; `free` where nothing is scripted and no steady level is given. -/
def Line.level (l : Line) (free : Bool) : Bool :=
  match l.script with
  | b :: _ => b
  | [] => l.steady.getD free

/-- A line after one sample. -/
def Line.next (l : Line) : Line := { l with script := l.script.tail }

/-- The environment's line for an input pin. -/
def State.line (p : InPin) (s : State) : Line :=
  match p with
  | .miso => s.miso
  | .xferDone => s.xferDone

/-- Replace the environment's line for an input pin. -/
def State.setLine (p : InPin) (l : Line) (s : State) : State :=
  match p with
  | .miso => { s with miso := l }
  | .xferDone => { s with xferDone := l }

/-- The level `PinRead(p)` finds: the environment oracle of 20_memory.md R66. -/
def inputLevel (p : InPin) (s : State) : Bool := (s.line p).level (Config.freeLevel p s.trace)

/-- `PinRead(p)` (R15): the sample is taken and recorded; its value is `inputLevel p s`. -/
def pinRead (p : InPin) (s : State) : State :=
  (s.setLine p (s.line p).next).record (.sample p (inputLevel p s))

/-- `Delay(kind)` (R15): one step that records the event (70_reset_and_hazards.md R258). -/
def delay (k : Wait) (s : State) : State := s.record (.delay k)

/-- `Emit(d)` (R15): append `d` to the diagnostic stream when DIAG_ENABLE. -/
def emit (d : Diag) (s : State) : State := if s.cfg.diagEnable then s.record (.diag d) else s

/-- `Emit(d)` and then what follows it. With DIAG_ENABLE the emission is a step of its own (00_scope.md R17) and the request
goes on from `g`; without, it does nothing and the next primitive follows at once. Log 9. -/
def emitThen (d : Diag) (g : Seg) (k : State → State) (s : State) : State :=
  if s.cfg.diagEnable then (emit d s).goto g else k s

/-- `AcquireCS()` (40_transport.md R122). -/
def acquireCS (s : State) : State := pinWrite .csN false s

/-- `ReleaseCS()` (R122). -/
def releaseCS (s : State) : State := pinWrite .csN true s

/-- Acceptance of a word (30_encoding.md R82). -/
def accept (w : Request) (s : State) : State :=
  { s with req := w, respValid := false, ctl := .busy (opcodeField w), point := .start }.record (.accept w)

/-- Completion with a response (R82, R86). -/
def complete (st : Status) (data : Byte) (s : State) : State :=
  { s with resp := response st data, respValid := true, ctl := .idle, point := .start }.record
    (.complete (response st data))

/-- The end of CARD_INIT: `init_phase`, `outcome` and the response in one step (42_card_init.md R185, `Finish` and the
timeout handler). -/
def conclude (st : Status) (o : InitOutcome) (s : State) : State :=
  complete st o.byte { s with initPhase := o.phase, outcome := o.byte, outcomeValid := true }

/-- After a command the channel registers are unspecified (10_state.md R41): free values. Log 8. -/
def forgetChannel (s : State) : State :=
  { s with
    chan :=
      { fCmd := Config.freeByte s.freeCount
        fArg := Config.freeArg s.freeCount
        fCrc := Config.freeByte (s.freeCount + 1)
        fWin := Config.freeByte (s.freeCount + 2)
        frameIdx := Config.freeIndex s.freeCount
        winLeft := Config.freeByte (s.freeCount + 3)
        scanLast := Config.freeByte (s.freeCount + 4) }
    freeCount := s.freeCount + 5 }

/-- The errors a request can raise (60_exceptions.md R213 to R215). -/
inductive Error where
  | illegal
  | notConfigured
  | timeout (site : Site)
  deriving DecidableEq, Repr

/-- `raise E` (R212): the exit actions of the raising operation, then the completion with E's response (R211).
The admission errors and XCHG's timeout have no exit action; a timeout inside a command releases `CS_N` first
(41_command_channel.md R143) and one in CARD_INIT's prefix runs CARD_INIT's handler (42_card_init.md R185), each a step of
its own after which the request stands at `aborted` or `abandoned`. There is no return from an error (R221). -/
def raise (e : Error) (s : State) : State :=
  match e with
  | .illegal => complete .illegal 0 s
  | .notConfigured => complete .notConfigured 0 s
  | .timeout .raw => complete .timeout 0 s
  | .timeout .prefixByte => (releaseCS s).goto .abandoned
  | .timeout (.frame c) => (releaseCS s).goto (.aborted c)
  | .timeout (.window c) => (releaseCS s).goto (.aborted c)

/-- A command re-raises its timeout (R143): SEND_CMD completes with TIMEOUT (R140), CARD_INIT's handler releases `CS_N`
once more (42_card_init.md R188). -/
def reraise (c : Caller) (s : State) : State :=
  match c with
  | .host => complete .timeout 0 (forgetChannel s)
  | .idle => (releaseCS (forgetChannel s)).goto .abandoned
  | .opcond => (releaseCS (forgetChannel s)).goto .abandoned
  | .blocklen => (releaseCS (forgetChannel s)).goto .abandoned

/-- The reset event (70_reset_and_hazards.md R240): every piece of the block's state to its value of 10_state.md R50, a
running request abandoned without a response, `Reset` recorded. What is not the block's is kept: the configuration, the
environment's lines, the words the host has still to present, the history. Log 7. -/
def resetEvent (s : State) : State :=
  { State.reset with
    trace := s.trace, cfg := s.cfg, miso := s.miso, xferDone := s.xferDone, host := s.host,
    freeCount := s.freeCount }.record .reset

/-- The host queues a word to present (30_encoding.md R82). -/
def State.present (w : Request) (s : State) : State := { s with host := s.host ++ [w] }

/-- The platform asserts reset (R240). -/
def State.assertReset (s : State) : State := { s with resetLine := true }

end Sys2Proof.Machine
end

