-- ==== Sys2Proof/Machine/Exchange.lean ====
section
/-! DEFINITION. The bit engine `Exchange(out) -> in` (40_transport.md R115 to R121). -/

namespace Sys2Proof.Machine

/-- The head of the bit loop (R116): `bit_idx <- i`, then `PinWrite(MOSI, tx_sr[i])`. -/
def driveBit (i : Fin 8) (site : Site) (s : State) : State :=
  (pinWrite .mosi (bitOf s.txSr i) { s with bitIdx := i }).goto (.xfer .rise site)

/-- The start of an exchange (R116): `tx_sr <- out`, then the most significant bit. -/
def beginExchange (out : Byte) (site : Site) (s : State) : State := driveBit 7 site { s with txSr := out }

/-- One `d <- PinRead(XFER_DONE)` of `WaitDone` (R117, R118): 1 ends the wait. -/
def pollDone (site : Site) (s : State) : State :=
  (pinRead .xferDone s).goto (.xfer (if inputLevel .xferDone s then .sample else .repoll) site)

/-- After a poll that read 0 (R117, R118): with no limit, poll again; with limit N, count it and at N leave the clock idle. -/
def pollAgain (site : Site) (s : State) : State :=
  match s.cfg.pollLimit with
  | none => pollDone site s
  | some n =>
    if s.pollCnt + 1 = n then (pinWrite .sclk false { s with pollCnt := s.pollCnt + 1 }).goto (.timedOut site)
    else pollDone site { s with pollCnt := s.pollCnt + 1 }

/-- `WaitDone` begins (R117, R118): the engine polls, and `poll_cnt`, present only with a limit (10_state.md R37), is 0. -/
def beginWait (site : Site) (s : State) : State :=
  pollDone site { s with eng := .poll, pollCnt := if s.cfg.pollLimit.isSome then 0 else s.pollCnt }

/-- `rx_sr[i] <- PinRead(MISO)` (R116). -/
def sampleMiso (site : Site) (s : State) : State :=
  (pinRead .miso { s with rxSr := putBit s.rxSr s.bitIdx (inputLevel .miso s) }).goto (.xfer .fall site)

/-- The primitives of a bit after its MOSI write, in their order (R116). -/
def engineStep (x : XferStep) (site : Site) (s : State) : State :=
  match x with
  | .rise => (pinWrite .sclk true s).goto (.xfer .settle site)
  | .settle => (delay .settle { s with eng := .settle }).goto (.xfer .poll site)
  | .poll => beginWait site s
  | .repoll => pollAgain site s
  | .sample => sampleMiso site s
  | .fall => (pinWrite .sclk false s).goto (.fallen site)

/-- The poll limit ran out (R118): the engine is idle, the byte in `rx_sr` is unspecified (a free value, log 8), and TIMEOUT
is raised. -/
def giveUp (site : Site) (s : State) : State :=
  raise (.timeout site) { s with eng := .idle, rxSr := Config.freeByte s.freeCount, freeCount := s.freeCount + 1 }

end Sys2Proof.Machine
end

