-- ==== Sys2Proof/Machine/CommandChannel.lean ====
section
/-! DEFINITION. `SendCommand(cmd, arg, crc, win) -> result` (41_command_channel.md R141 to R152), up to its release of
chip-select. -/

namespace Sys2Proof.Machine

/-- The command value is latched into the channel registers (R141). -/
def latch (k : Command) (s : State) : State :=
  { s with chan := { s.chan with fCmd := k.cmd, fArg := k.arg, fCrc := k.crc, fWin := k.win } }

/-- Step 2 of R143: `AcquireCS()`. -/
def selectCard (c : Caller) (s : State) : State := (acquireCS s).goto (.selected c)

/-- The start of `SendCommand` (R143): latch, step 1 (`DiagCmd`), step 2. -/
def enterCommand (c : Caller) (k : Command) (s : State) : State :=
  emitThen (.cmd k.cmd) (.announced c) (selectCard c) (latch k s)

/-- One turn of step 3 (R143): `frame_idx <- k`, then `Exchange(FrameByte(k))`. -/
def sendFrameByte (k : Fin 6) (c : Caller) (s : State) : State :=
  beginExchange (s.chan.frameByte k) (.frame c) { s with chan := { s.chan with frameIdx := k } }

/-- The head of step 4's loop (R143): another filler while `win_left != 0`, else step 5, `ReleaseCS()`. -/
def windowLoop (c : Caller) (s : State) : State :=
  if s.chan.winLeft = 0 then (releaseCS s).goto (.released c) else beginExchange filler (.window c) s

/-- Step 4 begins (R143): `scan_last <- 0xFF`, `win_left <- f_win`. -/
def beginWindow (c : Caller) (s : State) : State :=
  windowLoop c { s with chan := { s.chan with scanLast := filler, winLeft := s.chan.fWin } }

/-- A frame exchange has returned: its byte is discarded (R145). -/
def frameByteDone (c : Caller) (s : State) : State :=
  if s.chan.frameIdx = 5 then beginWindow c s else sendFrameByte (s.chan.frameIdx + 1) c s

/-- The scanner takes the window byte in `rx_sr` and the count goes down (R143, R147). -/
def scanByte (c : Caller) (s : State) : State :=
  windowLoop c
    { s with chan := { s.chan with scanLast := scanStep s.chan.scanLast s.rxSr, winLeft := s.chan.winLeft - 1 } }

/-- A window exchange has returned (R143): `DiagResp`, then the scanner. -/
def windowByteDone (c : Caller) (s : State) : State :=
  emitThen (.resp s.rxSr) (.mirrored c) (scanByte c) s

end Sys2Proof.Machine
end

