-- ==== Sys2Proof/Machine/CardInitializer.lean ====
section
/-! DEFINITION. The card initialisation sequence (42_card_init.md R171 to R188). -/

namespace Sys2Proof.Machine

/-- The head of the idle loop (R185, R175): one more attempt with GO_IDLE_STATE. -/
def idleAttempt (s : State) : State :=
  enterCommand .idle (Command.idle s.cfg) { s with initPhase := .idleCmd, attempt := s.attempt + 1 }

/-- The head of the op-cond loop (R185, R179): one more attempt with SEND_OP_COND. -/
def opcondAttempt (s : State) : State :=
  enterCommand .opcond (Command.opcond s.cfg) { s with initPhase := .opcondCmd, attempt := s.attempt + 1 }

/-- SET_BLOCKLEN, sent once (R182). -/
def sendBlocklen (s : State) : State :=
  enterCommand .blocklen (Command.blocklen s.cfg) { s with initPhase := .blocklen }

/-- The head of the prefix loop (R173): another filler while `prefix_left != 0`, else the idle loop with `attempt` at 0. -/
def prefixLoop (s : State) : State :=
  if s.prefixLeft = 0 then idleAttempt { s with attempt := 0 } else beginExchange filler .prefixByte s

/-- CARD_INIT begins (R185, R174): the card is deselected. -/
def beginCardInit (s : State) : State := (releaseCS { s with initPhase := .prefixClocking }).goto .prefixStart

/-- `prefix_left <- PREFIX_BYTES` (R173). -/
def beginPrefix (s : State) : State := prefixLoop { s with prefixLeft := s.cfg.prefixBytes }

/-- A prefix exchange has returned: its byte is discarded (R173). -/
def prefixByteDone (s : State) : State := prefixLoop { s with prefixLeft := s.prefixLeft - 1 }

/-- GO_IDLE_STATE returned `r` (R176, R177): 0x01 goes on to the op-cond loop, anything else backs off. -/
def idleResult (r : Byte) (s : State) : State :=
  if r = 0x01#8 then opcondAttempt { s with attempt := 0 }
  else (delay .backoff { s with initPhase := .idleBackoff }).goto .idleBackedOff

/-- After the idle loop's backoff (R178): give up at the limit, else try again. -/
def idleRetry (s : State) : State :=
  if s.attempt = s.cfg.idleRetryLimit then conclude .ok .idleExhausted s else idleAttempt s

/-- SEND_OP_COND returned `r` (R180, R177): 0x00 goes on to SET_BLOCKLEN, anything else backs off. -/
def opcondResult (r : Byte) (s : State) : State :=
  if r = 0x00#8 then sendBlocklen s
  else (delay .backoff { s with initPhase := .opcondBackoff }).goto .opcondBackedOff

/-- After the op-cond loop's backoff (R181). -/
def opcondRetry (s : State) : State :=
  if s.attempt = s.cfg.opcondRetryLimit then conclude .ok .opcondExhausted s else opcondAttempt s

/-- The end of the sequence (R182 to R184): SET_BLOCKLEN's result matters only with BLOCKLEN_CHECK. -/
def judgeBlocklen (r : Byte) (s : State) : State :=
  if s.cfg.blocklenCheck && r ≠ 0x00#8 then conclude .ok .blocklenRejected s else conclude .ok .ready s

/-- SET_BLOCKLEN returned `r` (R194): `DiagBlockLen`, then the end. -/
def blocklenResult (r : Byte) (s : State) : State :=
  emitThen (.blocklen r) (.reported r) (judgeBlocklen r) s

/-- `SendCommand` has returned `r` to its caller. -/
def commandReturned (c : Caller) (r : Byte) (s : State) : State :=
  match c with
  | .host => complete .ok r s
  | .idle => idleResult r s
  | .opcond => opcondResult r s
  | .blocklen => blocklenResult r s

/-- `return scan_last` (41_command_channel.md R143 step 6). -/
def commandEnded (c : Caller) (s : State) : State := commandReturned c s.chan.scanLast (forgetChannel s)

/-- After step 5 (R143): `DiagEnd`, then the return. -/
def commandReleased (c : Caller) (s : State) : State := emitThen .done (.ended c) (commandEnded c) s

end Sys2Proof.Machine
end

