-- ==== Sys2Proof/Machine/Sequencer.lean ====
section
/-! DEFINITION. Going on with the running request from the place it stands at: each step runs the internal register writes up
to the next primitive, and that primitive (00_scope.md R17). -/

namespace Sys2Proof.Machine

/-- `Exchange` returns `rx_sr` to the operation that called it (40_transport.md R115). -/
def exchangeReturned (site : Site) (s : State) : State :=
  match site with
  | .raw => complete .ok s.rxSr s
  | .prefixByte => prefixByteDone s
  | .frame c => frameByteDone c s
  | .window c => windowByteDone c s

/-- The end of a bit (40_transport.md R116): the next lower bit, or `eng <- E_IDLE` and the return. -/
def bitDone (site : Site) (s : State) : State :=
  if s.bitIdx = 0 then exchangeReturned site { s with eng := .idle } else driveBit (s.bitIdx - 1) site s

/-- The next step of a request that stands at `g`. -/
def resume (g : Seg) (s : State) : State :=
  match g with
  | .initSclk => (pinWrite .sclk false s).goto .initMosi
  | .initMosi => (pinWrite .mosi true s).goto .initDone
  | .initDone => complete .ok 0 { s with configured := true }
  | .acknowledge => complete .ok 0 s
  | .xfer x site => engineStep x site s
  | .fallen site => bitDone site s
  | .timedOut site => giveUp site s
  | .announced c => selectCard c s
  | .selected c => sendFrameByte 0 c s
  | .mirrored c => scanByte c s
  | .released c => commandReleased c s
  | .ended c => commandEnded c s
  | .aborted c => reraise c s
  | .prefixStart => beginPrefix s
  | .idleBackedOff => idleRetry s
  | .opcondBackedOff => opcondRetry s
  | .reported r => judgeBlocklen r s
  | .abandoned => conclude .timeout .timedOut s

/-- One step of a request whose operation begins with `first`: its beginning right after acceptance, else going on from
where it stands. -/
def request (first : State → State) (s : State) : Result :=
  match s.point with
  | .start => .next (first s)
  | .within g => .next (resume g s)

/-- Step 3 of the admission check (30_encoding.md R88): NOT_CONFIGURED before INIT_BUS, else the operation begins. -/
def admitted (first : State → State) (s : State) : State :=
  if s.configured then first s else raise .notConfigured s

end Sys2Proof.Machine
end

