-- ==== Sys2Proof/Machine/CardInit.lean ====
section
/-! DEFINITION. CARD_INIT (42_card_init.md R170). -/

namespace Sys2Proof.Machine

/-- CARD_INIT (R170, R185). -/
def execCardInit (s : State) : Result := request (admitted beginCardInit) s

end Sys2Proof.Machine
end

