-- ==== Sys2Proof/Machine/Commands.lean ====
section
/-! DEFINITION. SEND_CMD and the pseudo-instructions that are SEND_CMD words (41_command_channel.md R140, R154). -/

namespace Sys2Proof.Machine

/-- SEND_CMD with the command value `k` (R140). -/
def sendCommand (k : Command) (s : State) : Result := request (admitted (enterCommand .host k)) s

/-- SEND_CMD (R140). -/
def execSendCmd (cmd : Byte) (arg : Arg) (crc win : Byte) (s : State) : Result := sendCommand ⟨cmd, arg, crc, win⟩ s

/-- GO_IDLE_STATE is `SEND_CMD 0x40, 0, 0x95, 8` (30_encoding.md R97). -/
def execGoIdleState (s : State) : Result := sendCommand ⟨0x40#8, 0#32, 0x95#8, 8#8⟩ s

/-- SEND_OP_COND is `SEND_CMD 0x41, 0, 0xFF, 8` (R97). -/
def execSendOpCond (s : State) : Result := sendCommand ⟨0x41#8, 0#32, 0xFF#8, 8#8⟩ s

/-- SET_BLOCKLEN n is `SEND_CMD 0x50, n, 0xFF, 8` (R97). -/
def execSetBlocklen (n : Arg) (s : State) : Result := sendCommand ⟨0x50#8, n, 0xFF#8, 8#8⟩ s

end Sys2Proof.Machine
end

