-- ==== Sys2Proof/Machine/Transport.lean ====
section
/-! DEFINITION. The transport's requests: INIT_BUS, SELECT, DESELECT, XCHG and the pseudo-instruction FILL
(40_transport.md R111 to R114, 30_encoding.md R97). -/

namespace Sys2Proof.Machine

/-- INIT_BUS (R111): never NOT_CONFIGURED; `CS_N` 1 first. -/
def execInitBus (s : State) : Result := request (fun s => (pinWrite .csN true s).goto .initSclk) s

/-- SELECT (R112). -/
def execSelect (s : State) : Result := request (admitted fun s => (acquireCS s).goto .acknowledge) s

/-- DESELECT (R113). -/
def execDeselect (s : State) : Result := request (admitted fun s => (releaseCS s).goto .acknowledge) s

/-- XCHG (R114). -/
def execXchg (out : Byte) (s : State) : Result := request (admitted (beginExchange out .raw)) s

/-- FILL is `XCHG 0xFF` (R97). -/
def execFill (s : State) : Result := request (admitted (beginExchange filler .raw)) s

end Sys2Proof.Machine
end

