-- ==== Sys2Proof/Machine/Dispatch.lean ====
section
/-! DEFINITION. One arm per instruction. -/

namespace Sys2Proof.Machine

def exec (i : Instr) (s : State) : Host.Outcome State Fault Refusal :=
  match i with
  | .initBus => Sys2Proof.Machine.execInitBus s
  | .select => Sys2Proof.Machine.execSelect s
  | .deselect => Sys2Proof.Machine.execDeselect s
  | .xchg out => Sys2Proof.Machine.execXchg out s
  | .sendCmd cmd arg crc win => Sys2Proof.Machine.execSendCmd cmd arg crc win s
  | .cardInit => Sys2Proof.Machine.execCardInit s
  | .fill => Sys2Proof.Machine.execFill s
  | .goIdleState => Sys2Proof.Machine.execGoIdleState s
  | .sendOpCond => Sys2Proof.Machine.execSendOpCond s
  | .setBlocklen n => Sys2Proof.Machine.execSetBlocklen n s

end Sys2Proof.Machine
end

