-- ==== Sys2Proof/Machine/Fetch.lean ====
section
/-! DEFINITION. What a step does in each situation: the parts `Step.lean` only chooses between. -/

namespace Sys2Proof.Machine

/-- A busy block runs the request in `req`; a word that is no request ends with ILLEGAL (30_encoding.md R88 steps 1, 2). -/
def runRequest (s : State) : Result :=
  match decode s.req with
  | .ok i => exec i s
  | .error _ => .next (raise .illegal s)

/-- An idle block accepts the word the host presents (R82); with none it waits (70_reset_and_hazards.md R241). -/
def takeRequest (s : State) : State :=
  match s.host with
  | [] => s
  | w :: ws => accept w { s with host := ws }

/-- The state right after the acceptance of the word `w` (R82), with reset not asserted: the request `w` is the very next
thing a step runs. Log 6. -/
def accepted (w : Request) (s : State) : State := accept w { s with resetLine := false }

end Sys2Proof.Machine
end

