-- ==== Sys2Proof/Machine/Step.lean ====
section
/-! DEFINITION. One step of the machine (00_scope.md R17). -/

namespace Sys2Proof.Machine

/-- One step: the reset event where the platform asserts reset (70_reset_and_hazards.md R240), else the acceptance of a word
while idle (30_encoding.md R82), else the next primitive of the request that runs. -/
def step (s : State) : Host.Outcome State Fault Refusal :=
  if s.resetLine then .next (resetEvent s)
  else match s.ctl with
    | .idle => .next (takeRequest s)
    | .busy _ => runRequest s

/-- `s` with the request word of `nbits` bits `w` accepted, so that the next step runs it (log 6).
A word of fewer than 64 bits stands for the word with its missing high bits 0 (log 18). -/
def State.withFetchWord (s : State) (nbits w : Nat) : State := accepted (BitVec.ofNat 64 (w % 2 ^ nbits)) s

end Sys2Proof.Machine
end

