-- ==== Sys2Proof/Machine/Assembly.lean ====
section
/-! DEFINITION. The assembler (30_encoding.md R96, R97): one request per line, mnemonic then comma-separated operands, numbers
in hex `0x..` or decimal. -/

namespace Sys2Proof.Machine

/-- An operand that fits its field; one that does not is an assembly error (R96). -/
def fit (n v : Nat) : Option (BitVec n) := if v < 2 ^ n then some (BitVec.ofNat n v) else none

/-- The instruction of a mnemonic and its operands (R96, R97). -/
def assemble (mnemonic : String) (operands : List Nat) : Option Instr :=
  match mnemonic, operands with
  | "INIT_BUS", [] => some .initBus
  | "SELECT", [] => some .select
  | "DESELECT", [] => some .deselect
  | "XCHG", [out] => (fit 8 out).map .xchg
  | "SEND_CMD", [cmd, arg, crc, win] => do
    return .sendCmd (← fit 8 cmd) (← fit 32 arg) (← fit 8 crc) (← fit 8 win)
  | "CARD_INIT", [] => some .cardInit
  | "FILL", [] => some .fill
  | "GO_IDLE_STATE", [] => some .goIdleState
  | "SEND_OP_COND", [] => some .sendOpCond
  | "SET_BLOCKLEN", [n] => (fit 32 n).map .setBlocklen
  | _, _ => none

/-- The value of a digit in base 10 or 16. -/
def digit (base : Nat) (c : Char) : Option Nat :=
  let v := if '0' ≤ c ∧ c ≤ '9' then c.toNat - 48
    else if 'a' ≤ c ∧ c ≤ 'f' then c.toNat - 87
    else if 'A' ≤ c ∧ c ≤ 'F' then c.toNat - 55
    else base
  if v < base then some v else none

/-- The number of a digit string, most significant digit first. -/
def digits (base : Nat) (acc : Nat) : List Char → Option Nat
  | [] => some acc
  | c :: cs => (digit base c).bind fun d => digits base (acc * base + d) cs

/-- A number, `0x..` or decimal (R96). -/
def number : List Char → Option Nat
  | [] => none
  | ['0', 'x'] => none
  | '0' :: 'x' :: cs => digits 16 0 cs
  | cs => digits 10 0 cs

/-- Split a line at each comma. -/
def commaFields (cur : List Char) : List Char → List (List Char)
  | [] => [cur]
  | ',' :: cs => cur :: commaFields [] cs
  | c :: cs => commaFields (cur ++ [c]) cs

/-- A field without the blanks around it. -/
def trim (cs : List Char) : List Char := ((cs.dropWhile (· = ' ')).reverse.dropWhile (· = ' ')).reverse

/-- The operand list after a mnemonic: none, or numbers separated by commas. -/
def operandList (cs : List Char) : Option (List Nat) :=
  if trim cs = [] then some [] else (commaFields [] cs).mapM fun f => number (trim f)

/-- One line of assembly to its one request word (R96). -/
def assembleLine (line : String) : Option Request := do
  let cs := trim line.toList
  let ops ← operandList (cs.dropWhile (· ≠ ' '))
  return encode (← assemble (String.ofList (cs.takeWhile (· ≠ ' '))) ops)

/-- A program, one request per line, to the words a host presents in order (R96). -/
def assembleProgram (lines : List String) : Option (List Request) := lines.mapM assembleLine

end Sys2Proof.Machine
end

