-- ==== Sys2Proof/Machine/History.lean ====
section
/-! DEFINITION. What a claim reads from the event history (20_memory.md R68, R69): chip-select levels, backoffs, the
diagnostic stream, the byte-level view. Every list here is oldest first. -/

namespace Sys2Proof.Machine

/-- The levels driven on an output pin, in order. -/
def pinLevels (p : OutPin) (es : List Event) : List Bool :=
  es.filterMap fun e =>
    match e with
    | .pin q v => if q = p then some v else none
    | _ => none

/-- The pin events, in order. -/
def pinEvents (es : List Event) : List (OutPin × Bool) :=
  es.filterMap fun e =>
    match e with
    | .pin q v => some (q, v)
    | _ => none

/-- A diagnostic event. -/
def Event.isDiag : Event → Bool
  | .accept _ => false
  | .pin _ _ => false
  | .sample _ _ => false
  | .delay _ => false
  | .diag _ => true
  | .complete _ => false
  | .reset => false

/-- The diagnostic stream: the `Diag` events of the history, in order (60_exceptions.md R229). -/
def diagnostics (es : List Event) : List Diag :=
  es.filterMap fun e =>
    match e with
    | .diag d => some d
    | _ => none

/-- How many backoffs a history holds (42_card_init.md R189). -/
def backoffs (es : List Event) : Nat := es.countP fun e => e = .delay .backoff

/-- How many samples of an input pin a history holds, whatever they read (40_transport.md R121). -/
def samples (p : InPin) (es : List Event) : Nat := es.countP fun e => e = .sample p true || e = .sample p false

/-- The byte whose bits are given most significant first (20_memory.md R62, 40_transport.md R116). -/
def byteOfBits (bs : List Bool) : Byte := bs.foldl (fun v b => (v <<< 1) ||| (BitVec.ofBool b).zeroExtend 8) 0

/-- The events of the byte-level view (R69). -/
inductive ByteEvent where
  /-- `Xchg(out, in)`. -/
  | xchg (out inn : Byte)
  /-- `Pin(CS_N, v)`. -/
  | cs (v : Bool)
  /-- `Delay(BACKOFF)`. -/
  | backoff
  deriving DecidableEq, Repr

/-- The byte-level view of a history (R69): between two `CS_N` events the MOSI writes and MISO samples group into bytes of 8.
`acc` holds the pairs of the byte in progress and `o` the last MOSI level not yet paired.
No exchange reaches over the beginning or end of a request, so both are dropped there: an exchange that a timeout or a reset cut
short gives no byte, and its bits never mix with a later exchange's. Log 17. -/
def byteView (acc : List (Bool × Bool)) (o : Option Bool) : List Event → List ByteEvent
  | [] => []
  | .pin .mosi v :: es => byteView acc (some v) es
  | .pin .csN v :: es => .cs v :: byteView [] none es
  | .delay .backoff :: es => .backoff :: byteView acc o es
  | .sample .miso i :: es =>
    let pairs := acc ++ [(o.getD false, i)]
    if pairs.length = 8 then
      .xchg (byteOfBits (pairs.map Prod.fst)) (byteOfBits (pairs.map Prod.snd)) :: byteView [] none es
    else byteView pairs none es
  | .accept _ :: es => byteView [] none es
  | .complete _ :: es => byteView [] none es
  | .reset :: es => byteView [] none es
  | .pin .sclk _ :: es => byteView acc o es
  | .sample .xferDone _ :: es => byteView acc o es
  | .delay .settle :: es => byteView acc o es
  | .diag _ :: es => byteView acc o es

/-- The byte-level view of a state's history (R69). -/
def State.bytesOnWire (s : State) : List ByteEvent := byteView [] none s.history

end Sys2Proof.Machine
end

