-- ==== Sys2Proof/Machine/Reference.lean ====
section
/-! DEFINITION. The spec's pseudocode read big-step, for claims: what a whole request records and answers when every XFER_DONE
sample reads 1 at once (95_test_vectors.md) and MISO is supplied by a given line. It is written from the rules' own words
(R116, R143, R148, R185), not from the machine's step, and the machine is claimed to implement it. -/

namespace Sys2Proof.Machine

/-- The next `n` samples of a line that has a steady level, in order. -/
def Line.bits : Nat → Line → List Bool
  | 0, _ => []
  | n + 1, l => l.level false :: Line.bits n l.next

/-- A line after `n` samples. -/
def Line.skip (n : Nat) (l : Line) : Line := { l with script := l.script.drop n }

/-- The byte the next exchange returns: the eight samples, most significant first (R116). -/
def Line.byte (l : Line) : Byte := byteOfBits (l.bits 8)

/-- The bytes the next `n` exchanges return. -/
def Line.bytes : Nat → Line → List Byte
  | 0, _ => []
  | n + 1, l => l.byte :: Line.bytes n (l.skip 8)

/-- The events of one bit (R116): `o` out, `i` in, completion at the first poll. -/
def bitEvents (o i : Bool) : List Event :=
  [.pin .mosi o, .pin .sclk true, .delay .settle, .sample .xferDone true, .sample .miso i, .pin .sclk false]

/-- The events of `Exchange(out)` returning `inn` (R116): eight bits, most significant first. -/
def exchangeEvents (out inn : Byte) : List Event :=
  [7, 6, 5, 4, 3, 2, 1, 0].flatMap fun i => bitEvents (out.getLsbD i) (inn.getLsbD i)

/-- The response-scan law (41_command_channel.md R148). -/
def scan (bs : List Byte) : Byte := bs.foldl (fun acc b => if b = 0xFF#8 then acc else b) 0xFF#8

/-- The frame on the wire (30_encoding.md R92). -/
def Command.frame (k : Command) : List Byte :=
  [k.cmd, k.arg.extractLsb' 24 8, k.arg.extractLsb' 16 8, k.arg.extractLsb' 8 8, k.arg.extractLsb' 0 8, k.crc]

/-- A diagnostic event, only with DIAG_ENABLE (60_exceptions.md R229). -/
def diagEvent (enabled : Bool) (d : Diag) : List Event := if enabled then [.diag d] else []

/-- The result of `SendCommand` (R143, R148): the scan of the window, the frame's replies discarded. -/
def commandResult (k : Command) (l : Line) : Byte := scan ((l.skip 48).bytes k.win.toNat)

/-- The line after `SendCommand`: 6 + win exchanges (R152). -/
def commandLine (k : Command) (l : Line) : Line := l.skip (8 * (6 + k.win.toNat))

/-- The events of `SendCommand` (R143). -/
def commandEvents (enabled : Bool) (k : Command) (l : Line) : List Event :=
  diagEvent enabled (.cmd k.cmd) ++ [.pin .csN false]
    ++ (List.zipWith exchangeEvents k.frame (l.bytes 6)).flatten
    ++ ((l.skip 48).bytes k.win.toNat).flatMap (fun b => exchangeEvents 0xFF#8 b ++ diagEvent enabled (.resp b))
    ++ [.pin .csN true] ++ diagEvent enabled .done

/-- What a retry loop leaves: its events, whether it succeeded, the attempts made, the line after it. -/
structure LoopRun where
  events : List Event
  success : Bool
  attempts : Nat
  line : Line
  deriving DecidableEq, Repr

/-- A retry loop of R185 with `left` attempts still allowed after `made`: send, succeed on the exact result `good`, else back
off and retry. -/
def retryLoop (enabled : Bool) (k : Command) (good : Byte) : Nat → Nat → Line → LoopRun
  | 0, made, l => ⟨[], false, made, l⟩
  | left + 1, made, l =>
    if commandResult k l = good then ⟨commandEvents enabled k l, true, made + 1, commandLine k l⟩
    else
      let r := retryLoop enabled k good left (made + 1) (commandLine k l)
      ⟨commandEvents enabled k l ++ [.delay .backoff] ++ r.events, r.success, r.attempts, r.line⟩

/-- What CARD_INIT leaves: its events up to its completion, its outcome, its last loop's attempts, the line after it. -/
structure InitRun where
  events : List Event
  outcome : InitOutcome
  attempts : Nat
  line : Line
  deriving DecidableEq, Repr

/-- `CardInit()` (R185) with every completion poll reading 1. -/
def cardInitRun (c : Config) (l : Line) : InitRun :=
  let pre := [.pin .csN true] ++ (l.bytes c.prefixBytes.toNat).flatMap (exchangeEvents 0xFF#8)
  let idle := retryLoop c.diagEnable (Command.idle c) 0x01#8 c.idleRetryLimit.toNat 0 (l.skip (8 * c.prefixBytes.toNat))
  if idle.success = false then ⟨pre ++ idle.events, .idleExhausted, idle.attempts, idle.line⟩
  else
    let opc := retryLoop c.diagEnable (Command.opcond c) 0x00#8 c.opcondRetryLimit.toNat 0 idle.line
    if opc.success = false then ⟨pre ++ idle.events ++ opc.events, .opcondExhausted, opc.attempts, opc.line⟩
    else
      let r := commandResult (Command.blocklen c) opc.line
      ⟨pre ++ idle.events ++ opc.events ++ commandEvents c.diagEnable (Command.blocklen c) opc.line
          ++ diagEvent c.diagEnable (.blocklen r),
        if c.blocklenCheck && r ≠ 0x00#8 then .blocklenRejected else .ready, opc.attempts,
        commandLine (Command.blocklen c) opc.line⟩

end Sys2Proof.Machine
end

