-- ==== Sys2Proof/Safety.lean ====
section
/-! DEFINITION. The terms claims use: runs, the environment premises of 70_reset_and_hazards.md R251, and the invariants of the
machine. -/

namespace Sys2Proof.Machine

/-- `n` steps of the machine. -/
def run : Nat → State → Result
  | 0, s => .next s
  | n + 1, s =>
    match step s with
    | .next t => run n t
    | .fault r => .fault r
    | .refused r => .refused r

/-- `n` steps of the instruction `i`. -/
def execTimes (i : Instr) : Nat → State → Result
  | 0, s => .next s
  | n + 1, s =>
    match exec i s with
    | .next t => execTimes i n t
    | .fault r => .fault r
    | .refused r => .refused r

/-- What XFER_DONE reads after `m` more samples of it that read 0 and nothing else in between (20_memory.md R66). -/
def State.doneAfter (m : Nat) (s : State) : Bool :=
  (s.xferDone.skip m).level (Config.freeLevel .xferDone (List.replicate m (.sample .xferDone false) ++ s.trace))

/-- The block is about to sample XFER_DONE: at a bit's first poll or at a later one. -/
def AtPoll (s : State) : Prop := ∃ site, s.point = .within (.xfer .poll site) ∨ s.point = .within (.xfer .repoll site)

/-- `DoneLive` (R251): "in every bit, `XFER_DONE` eventually reads 1", however the environment comes to it: at every poll of
every bit the machine runs, some further sample would read 1. -/
def DoneLive (s : State) : Prop := ∀ n t, run n s = .next t → AtPoll t → ∃ m, t.doneAfter m = true

/-- Every XFER_DONE sample reads 1 at once, the premise of 95_test_vectors.md. -/
def DoneAtOnce (s : State) : Prop := s.xferDone = ⟨[], some true⟩

/-- XFER_DONE never reads 1 again while it is polled: the hang's environment (60_exceptions.md R216). -/
def DoneNever (s : State) : Prop := ∀ m, s.doneAfter m = false

/-- MISO's samples are all given by its line. -/
def MisoGiven (s : State) : Prop := s.miso.steady ≠ none

/-- The events recorded since `s`, oldest first, in a state `t` a run from `s` reaches. -/
def eventsSince (s t : State) : List Event := t.history.drop s.history.length

/-- The opcode of the request a `SendCommand` call serves. -/
def Caller.opcode : Caller → Byte
  | .host => 0x05#8
  | .idle => 0x06#8
  | .opcond => 0x06#8
  | .blocklen => 0x06#8

/-- The opcode of the request an exchange serves. -/
def Site.opcode : Site → Byte
  | .raw => 0x04#8
  | .prefixByte => 0x06#8
  | .frame c => c.opcode
  | .window c => c.opcode

/-- The places that belong to the sequence of an opcode (00_scope.md R2, 30_encoding.md R84). -/
def Seg.belongsTo (op : Byte) : Seg → Prop
  | .initSclk => op = 0x01#8
  | .initMosi => op = 0x01#8
  | .initDone => op = 0x01#8
  | .acknowledge => op = 0x02#8 ∨ op = 0x03#8
  | .xfer _ site => op = site.opcode
  | .fallen site => op = site.opcode
  | .timedOut site => op = site.opcode
  | .announced c => op = c.opcode
  | .selected c => op = c.opcode
  | .mirrored c => op = c.opcode
  | .released c => op = c.opcode
  | .ended c => op = c.opcode
  | .aborted c => op = c.opcode
  | .prefixStart => op = 0x06#8
  | .idleBackedOff => op = 0x06#8
  | .opcondBackedOff => op = 0x06#8
  | .reported _ => op = 0x06#8
  | .abandoned => op = 0x06#8

/-- The block stands in the sequence of the instruction `i`: at its beginning or at a place of it. -/
def StandsIn (i : Instr) (s : State) : Prop :=
  match s.point with
  | .start => True
  | .within g => g.belongsTo i.opcode

/-- The handshake invariant (30_encoding.md R82, 10_state.md R42, R47, R48): an idle block stands nowhere, a busy one runs the
request in `req`, has no valid response and, once past admission, stands in that request's own sequence. -/
def HandshakeInv (s : State) : Prop :=
  match s.ctl with
  | .idle => s.point = .start
  | .busy op => s.respValid = false ∧ op = opcodeField s.req ∧
      match s.point with
      | .start => True
      | .within g => g.belongsTo op ∧ ∃ i, decode s.req = .ok i

/-- The level of SCLK before each primitive of a bit (40_transport.md R116). -/
def XferStep.clock : XferStep → Bool
  | .rise => false
  | .settle => true
  | .poll => true
  | .repoll => true
  | .sample => true
  | .fall => true

/-- The engine phase before each primitive of a bit (R116): the first bit finds it idle, later ones find the last bit's. -/
def XferStep.engine (i : Fin 8) : XferStep → Engine
  | .rise => if i = 7 then .idle else .poll
  | .settle => if i = 7 then .idle else .poll
  | .poll => .settle
  | .repoll => .poll
  | .sample => .poll
  | .fall => .poll

/-- Chip-select during an exchange (41_command_channel.md R145, R146, 42_card_init.md R173): 0 in a command, 1 in the prefix,
the host's own for XCHG (40_transport.md R119). -/
def Site.chipSelect (cs : Level) : Site → Prop
  | .raw => cs ≠ .z
  | .prefixByte => cs = .driven true
  | .frame _ => cs = .driven false
  | .window _ => cs = .driven false

/-- The pins and the engine at each place of a sequence. -/
def Seg.bus (s : State) : Seg → Prop
  | .initSclk => s.eng = .idle ∧ s.csN = .driven true
  | .initMosi => s.eng = .idle ∧ s.csN = .driven true ∧ s.sclk = .driven false
  | .initDone => s.eng = .idle ∧ s.csN = .driven true ∧ s.sclk = .driven false ∧ s.mosi = .driven true
  | .acknowledge => s.eng = .idle ∧ s.configured = true ∧ s.sclk = .driven false
  | .xfer x site => s.eng = x.engine s.bitIdx ∧ s.configured = true ∧ s.sclk = .driven x.clock ∧
      s.mosi = .driven (bitOf s.txSr s.bitIdx) ∧ site.chipSelect s.csN
  | .fallen site => s.eng = .poll ∧ s.configured = true ∧ s.sclk = .driven false ∧
      s.mosi = .driven (bitOf s.txSr s.bitIdx) ∧ site.chipSelect s.csN
  | .timedOut site => s.eng = .poll ∧ s.configured = true ∧ s.sclk = .driven false ∧
      s.mosi = .driven (bitOf s.txSr s.bitIdx) ∧ site.chipSelect s.csN
  | .announced _ => s.eng = .idle ∧ s.configured = true ∧ s.sclk = .driven false
  | .selected _ => s.eng = .idle ∧ s.configured = true ∧ s.sclk = .driven false ∧ s.csN = .driven false
  | .mirrored _ => s.eng = .idle ∧ s.configured = true ∧ s.sclk = .driven false ∧ s.csN = .driven false
  | .released _ => s.eng = .idle ∧ s.configured = true ∧ s.sclk = .driven false ∧ s.csN = .driven true
  | .ended _ => s.eng = .idle ∧ s.configured = true ∧ s.sclk = .driven false ∧ s.csN = .driven true
  | .aborted _ => s.eng = .idle ∧ s.configured = true ∧ s.sclk = .driven false ∧ s.csN = .driven true
  | .prefixStart => s.eng = .idle ∧ s.configured = true ∧ s.sclk = .driven false ∧ s.csN = .driven true
  | .idleBackedOff => s.eng = .idle ∧ s.configured = true ∧ s.sclk = .driven false ∧ s.csN = .driven true
  | .opcondBackedOff => s.eng = .idle ∧ s.configured = true ∧ s.sclk = .driven false ∧ s.csN = .driven true
  | .reported _ => s.eng = .idle ∧ s.configured = true ∧ s.sclk = .driven false ∧ s.csN = .driven true
  | .abandoned => s.eng = .idle ∧ s.configured = true ∧ s.sclk = .driven false ∧ s.csN = .driven true

/-- The bus invariant (10_state.md R31, R33, R36, 40_transport.md R110, R116): a configured block drives its three outputs;
between exchanges the engine is idle and SCLK low; inside one, the pins and the engine are those R116 gives the place. -/
def BusInv (s : State) : Prop :=
  (s.configured = true → s.csN ≠ .z ∧ s.sclk ≠ .z ∧ s.mosi ≠ .z) ∧
  match s.point with
  | .start => s.eng = .idle ∧ (s.configured = true → s.sclk = .driven false)
  | .within g => g.bus s

/-- The command a caller latched (41_command_channel.md R141, 42_card_init.md R171). -/
def Caller.command (s : State) : Caller → Command
  | .host => ⟨cmdField s.req, argField s.req, crcField s.req, lowField s.req⟩
  | .idle => Command.idle s.cfg
  | .opcond => Command.opcond s.cfg
  | .blocklen => Command.blocklen s.cfg

/-- The command the frame registers hold (10_state.md R38). -/
def Channel.command (ch : Channel) : Command := ⟨ch.fCmd, ch.fArg, ch.fCrc, ch.fWin⟩

/-- What an exchange sends, and the count that allows it (R114, R145, R146, R173). -/
def Site.sends (s : State) : Site → Prop
  | .raw => s.txSr = lowField s.req
  | .prefixByte => s.txSr = filler ∧ s.prefixLeft ≠ 0 ∧ s.prefixLeft.toNat ≤ s.cfg.prefixBytes.toNat
  | .frame c => s.chan.command = c.command s ∧ s.txSr = s.chan.frameByte s.chan.frameIdx
  | .window c => s.chan.command = c.command s ∧ s.txSr = filler ∧ s.chan.winLeft ≠ 0 ∧
      s.chan.winLeft.toNat ≤ s.chan.fWin.toNat

/-- The command registers at each place of a sequence, and the limit that a timeout presupposes. -/
def Seg.transfer (s : State) : Seg → Prop
  | .initSclk => True
  | .initMosi => True
  | .initDone => True
  | .acknowledge => True
  | .xfer x site => site.sends s ∧ (x = .repoll → ∀ n, s.cfg.pollLimit = some n → s.pollCnt < n)
  | .fallen site => site.sends s
  | .timedOut site => site.sends s ∧ s.cfg.pollLimit ≠ none
  | .announced c => s.chan.command = c.command s
  | .selected c => s.chan.command = c.command s
  | .mirrored c => s.chan.command = c.command s ∧ s.chan.winLeft ≠ 0 ∧ s.chan.winLeft.toNat ≤ s.chan.fWin.toNat
  | .released c => s.chan.command = c.command s ∧ s.chan.winLeft = 0
  | .ended c => s.chan.command = c.command s ∧ s.chan.winLeft = 0
  | .aborted _ => s.cfg.pollLimit ≠ none
  | .prefixStart => True
  | .idleBackedOff => True
  | .opcondBackedOff => True
  | .reported _ => True
  | .abandoned => s.cfg.pollLimit ≠ none

/-- The transfer invariant (R37, R38, R39, R44, R114, R118, R141, R145, R146, R173): each exchange sends the byte its place
calls for, the latched command never changes during a call, the countdowns stay in range, a bit's count of polls stays below
the limit, and only a block with a limit times out. -/
def TransferInv (s : State) : Prop :=
  match s.point with
  | .start => True
  | .within g => g.transfer s

/-- CARD_INIT is not running: `init_phase` and `outcome` are those of the last one that completed, or of reset
(10_state.md R43, R46). -/
def Resting (s : State) : Prop :=
  (s.initPhase = .uninit ∧ s.outcomeValid = false) ∨
  (s.initPhase = .ready ∧ s.outcomeValid = true ∧ s.outcome = InitOutcome.ready.byte) ∨
  (s.initPhase = .failed ∧ s.outcomeValid = true ∧ ∃ o : InitOutcome, o ≠ .ready ∧ s.outcome = o.byte)

/-- The attempts made in a retry loop: from 1 to its limit (42_card_init.md R175, R179, R192). -/
def AttemptsWithin (s : State) (limit : BitVec 4) : Prop := 0 < s.attempt.toNat ∧ s.attempt.toNat ≤ limit.toNat

/-- The initialiser's state while a call of `SendCommand` runs (42_card_init.md R172). -/
def Caller.phase (s : State) : Caller → Prop
  | .host => Resting s
  | .idle => s.initPhase = .idleCmd ∧ AttemptsWithin s s.cfg.idleRetryLimit
  | .opcond => s.initPhase = .opcondCmd ∧ AttemptsWithin s s.cfg.opcondRetryLimit
  | .blocklen => s.initPhase = .blocklen ∧ AttemptsWithin s s.cfg.opcondRetryLimit

/-- The initialiser's state while an exchange runs. -/
def Site.phase (s : State) : Site → Prop
  | .raw => Resting s
  | .prefixByte => s.initPhase = .prefixClocking
  | .frame c => c.phase s
  | .window c => c.phase s

/-- The initialiser's state at each place of a sequence (42_card_init.md R172). -/
def Seg.phase (s : State) : Seg → Prop
  | .initSclk => Resting s
  | .initMosi => Resting s
  | .initDone => Resting s
  | .acknowledge => Resting s
  | .xfer _ site => site.phase s
  | .fallen site => site.phase s
  | .timedOut site => site.phase s
  | .announced c => c.phase s
  | .selected c => c.phase s
  | .mirrored c => c.phase s
  | .released c => c.phase s
  | .ended c => c.phase s
  | .aborted c => c.phase s
  | .prefixStart => s.initPhase = .prefixClocking
  | .idleBackedOff => s.initPhase = .idleBackoff ∧ AttemptsWithin s s.cfg.idleRetryLimit
  | .opcondBackedOff => s.initPhase = .opcondBackoff ∧ AttemptsWithin s s.cfg.opcondRetryLimit
  | .reported _ => s.initPhase = .blocklen ∧ AttemptsWithin s s.cfg.opcondRetryLimit
  | .abandoned => s.initPhase = .prefixClocking ∨ s.initPhase = .idleCmd ∨ s.initPhase = .opcondCmd ∨
      s.initPhase = .blocklen

/-- The initialiser invariant (10_state.md R43, R45, R46, 42_card_init.md R172, R192): `init_phase` is the one R172 gives the
place, `attempt` counts from 1 to the loop's limit, and a valid outcome is one of the codes of 60_exceptions.md R237. -/
def InitInv (s : State) : Prop :=
  (s.outcomeValid = true → ∃ o : InitOutcome, s.outcome = o.byte) ∧
  match s.point with
  | .start => Resting s
  | .within g => g.phase s

end Sys2Proof.Machine
end

