-- ==== Sys2Proof/Certificates/Slice0/Obligations.lean ====
section
/-! DEFINITION. The statements for the provers. Rule numbers are the spec's; the register values a statement does not name are
unchanged where it gives the next state as an update of the state before. -/

open Sys2Proof Sys2Proof.Machine

/-! ### Encoding -/

/-- Decoding the word of any instruction gives what the instruction stands for, with every operand at every value; for a
well-formed one, itself (R80, R81, R97, INDEX.md). -/
def Obligations.DecodeOfEncodeIsTheExpansion : Prop :=
  ∀ i : Instr, decode (encode i) = .ok i.expand ∧ (i.wellFormed = true → decode (encode i) = .ok i)

/-- A word that decodes is the word its instruction encodes to, and the instruction is one of the six requests (R90, R91). -/
def Obligations.EncodeOfDecodeIsTheWord : Prop :=
  ∀ (w : Request) (i : Instr), decode w = .ok i → encode i = w ∧ i.wellFormed = true

/-- The decoder and the first six rows of the opcode table agree on every word, and at most one row matches (INDEX.md). -/
def Obligations.DecoderAgreesWithTheOpcodeTable : Prop :=
  ∀ w : Request,
    (∀ r₁ ∈ decoderTable, ∀ r₂ ∈ decoderTable, r₁.accepts w = true → r₂.accepts w = true → r₁ = r₂) ∧
    (∀ i, decode w = .ok i → ∃ r ∈ decoderTable, r.accepts w = true ∧ opcodeField r.pattern = i.opcode) ∧
    (∀ r ∈ decoderTable, r.accepts w = true → ∃ i, decode w = .ok i ∧ i.opcode = opcodeField r.pattern)

/-- Formats N and X (R83, R85): the operand bits a format reserves must be 0, and `OUT` is the low byte. -/
def Obligations.FormatsNAndXReserveTheirBits : Prop :=
  ∀ w : Request,
    (∀ op i, (op, i) ∈ [(0x01#8, Instr.initBus), (0x02#8, Instr.select), (0x03#8, Instr.deselect),
        (0x06#8, Instr.cardInit)] → w.extractLsb' 56 8 = op →
      (w.extractLsb' 0 56 = 0#56 → decode w = .ok i) ∧
      (w.extractLsb' 0 56 ≠ 0#56 → decode w = .error (.reservedBits op))) ∧
    (w.extractLsb' 56 8 = 0x04#8 →
      (w.extractLsb' 8 48 = 0#48 → decode w = .ok (.xchg (w.extractLsb' 0 8))) ∧
      (w.extractLsb' 8 48 ≠ 0#48 → decode w = .error (.reservedBits 0x04#8)))

/-- Opcodes 0x00 and 0x07..0xFF are reserved, and every word with opcode 0x05 is a SEND_CMD with its fields verbatim
(R81, R87, R89). -/
def Obligations.ReservedOpcodesAndSendCmdWords : Prop :=
  ∀ w : Request,
    ((w.extractLsb' 56 8).toNat = 0 ∨ 7 ≤ (w.extractLsb' 56 8).toNat →
      decode w = .error (.reservedOpcode (w.extractLsb' 56 8))) ∧
    (w.extractLsb' 56 8 = 0x05#8 →
      decode w = .ok (.sendCmd (w.extractLsb' 48 8) (w.extractLsb' 16 32) (w.extractLsb' 8 8) (w.extractLsb' 0 8)))

/-- The spec's own example words (R98), and a pseudo-instruction's (R97). -/
def Obligations.ExampleWordsDecode : Prop :=
  decode 0x0100000000000000#64 = .ok .initBus ∧ decode 0x0200000000000000#64 = .ok .select ∧
  decode 0x0300000000000000#64 = .ok .deselect ∧ decode 0x04000000000000A5#64 = .ok (.xchg 0xA5#8) ∧
  decode 0x0540123456789500#64 = .ok (.sendCmd 0x40#8 0x12345678#32 0x95#8 0x00#8) ∧
  decode 0x0600000000000000#64 = .ok .cardInit ∧
  decode 0x0540000000009508#64 = .ok (.sendCmd 0x40#8 0#32 0x95#8 8#8) ∧
  decode 0x0000000000000000#64 = .error (.reservedOpcode 0x00#8) ∧
  decode 0x0700000000000000#64 = .error (.reservedOpcode 0x07#8) ∧
  decode 0x0100000000000001#64 = .error (.reservedBits 0x01#8) ∧
  decode 0x04000000000001A5#64 = .error (.reservedBits 0x04#8)

/-- An operand that does not fit its field is an assembly error; one that fits is taken as it is (R96). -/
def Obligations.AssemblerChecksOperandWidths : Prop :=
  (∀ v, assemble "XCHG" [v] = if v < 2 ^ 8 then some (.xchg (BitVec.ofNat 8 v)) else none) ∧
  (∀ v, assemble "SET_BLOCKLEN" [v] = if v < 2 ^ 32 then some (.setBlocklen (BitVec.ofNat 32 v)) else none) ∧
  (∀ c a k n, assemble "SEND_CMD" [c, a, k, n] =
    if c < 2 ^ 8 ∧ a < 2 ^ 32 ∧ k < 2 ^ 8 ∧ n < 2 ^ 8 then
      some (.sendCmd (BitVec.ofNat 8 c) (BitVec.ofNat 32 a) (BitVec.ofNat 8 k) (BitVec.ofNat 8 n))
    else none)

/-! ### The step, the handshake, reset -/

/-- A busy block's step is its request's instruction, nothing added; a word placed by `withFetchWord` is the very next thing
run (R82, R84). That `withFetchWord` is the state right after an acceptance, with reset not asserted, is the model's choice
(log 6), and so is reading a bit string of fewer than 64 bits as a request word at all (log 18): R91 knows only 64 bits. -/
def Obligations.StepRunsTheDecodedRequest : Prop :=
  (∀ (s : State) (op : Byte) (i : Instr), s.resetLine = false → s.ctl = .busy op → decode s.req = .ok i →
    step s = exec i s) ∧
  (∀ (s : State) (nbits w : Nat) (i : Instr), decodeTableWord nbits w = some i →
    step (s.withFetchWord nbits w) = exec i (s.withFetchWord nbits w))

/-- No step and no instruction ever stops: every failure is a response or a wait (R210). -/
def Obligations.NothingStopsTheMachine : Prop :=
  (∀ s : State, ∃ t, step s = .next t) ∧ (∀ (i : Instr) (s : State), ∃ t, exec i s = .next t)

/-- Acceptance happens only while idle; a word presented while busy is neither accepted nor lost; with nothing presented an
idle block waits (R82, R241). The host's queue, the place in the sequence and the idle wait are the model's own (logs 3, 6). -/
def Obligations.AcceptanceOnlyWhileIdle : Prop :=
  (∀ (s : State) (w : Request) (ws : List Request), s.resetLine = false → s.ctl = .idle → s.host = w :: ws →
    step s = .next { s with
      host := ws, req := w, respValid := false, ctl := .busy (w.extractLsb' 56 8), point := .start,
      trace := .accept w :: s.trace }) ∧
  (∀ (s t : State) (op : Byte), s.resetLine = false → s.ctl = .busy op → step s = .next t →
    t.host = s.host ∧ t.req = s.req ∧ ∀ w, t.trace ≠ .accept w :: s.trace) ∧
  (∀ s : State, s.resetLine = false → s.ctl = .idle → s.host = [] → step s = .next s)

/-- Until it completes, a running request leaves the response invalid; it completes by writing a response, becoming idle and
recording that response (R47, R48, R82). -/
def Obligations.CompletionWritesTheResponse : Prop :=
  ∀ (s t : State) (op : Byte), HandshakeInv s → s.resetLine = false → s.ctl = .busy op → step s = .next t →
    (t.ctl = s.ctl ∧ t.respValid = false ∧ t.resp = s.resp ∧ ∀ r, t.trace ≠ .complete r :: s.trace) ∨
    (t.ctl = .idle ∧ t.respValid = true ∧ t.trace = .complete t.resp :: s.trace)

/-- The reset event (R240), which keeps what is not the block's (log 7). The registers R240 leaves unspecified are not spoken of: their values are the model's (log 1). -/
def Obligations.ResetEventClearsTheBlock : Prop :=
  ∀ s : State, s.resetLine = true → ∃ t, step s = .next t ∧
    t.csN = .z ∧ t.sclk = .z ∧ t.mosi = .z ∧ t.configured = false ∧ t.ctl = .idle ∧ t.busy = false ∧
    t.respValid = false ∧ t.eng = .idle ∧ t.initPhase = .uninit ∧ t.attempt = 0 ∧ t.outcomeValid = false ∧
    t.trace = .reset :: s.trace ∧ t.cfg = s.cfg ∧ t.miso = s.miso ∧ t.xferDone = s.xferDone ∧ t.host = s.host ∧
    t.resetLine = false

/-- The values R50 gives for reset, the defaults of R9 (its two OPEN parameters apart), and the `Reset` the history has recorded
at power-on (R240). -/
def Obligations.ResetStateIsTheSpecs : Prop :=
  State.reset.csN = .z ∧ State.reset.sclk = .z ∧ State.reset.mosi = .z ∧ State.reset.configured = false ∧
  State.reset.ctl = .idle ∧ State.reset.busy = false ∧ State.reset.respValid = false ∧ State.reset.eng = .idle ∧
  State.reset.initPhase = .uninit ∧ State.reset.attempt = 0 ∧ State.reset.outcomeValid = false ∧
  State.reset.cfg.prefixBytes = 10 ∧ State.reset.cfg.idleRetryLimit = 10 ∧ State.reset.cfg.opcondRetryLimit = 10 ∧
  State.reset.cfg.winIdle = 8 ∧ State.reset.cfg.winOpcond = 8 ∧ State.reset.cfg.winBlocklen = 8 ∧
  State.reset.cfg.crcIdle = 0x95 ∧ State.reset.cfg.crcOpcond = 0xFF ∧ State.reset.cfg.crcBlocklen = 0xFF ∧
  State.reset.cfg.blockLen = 512 ∧ State.reset.cfg.pollLimit = none ∧ State.reset.cfg.blocklenCheck = false ∧
  State.reset.history = [.reset]

/-- ILLEGAL (R213): a word that is no request is refused right after acceptance, changing only the handshake registers, and
nothing else is answered with status 0x01. -/
def Obligations.IllegalOnlyByAdmission : Prop :=
  (∀ (s : State) (op : Byte) (e : Reject), s.resetLine = false → s.ctl = .busy op → s.point = .start →
    decode s.req = .error e →
    step s = .next { s with
      resp := 0x0100#16, respValid := true, ctl := .idle, trace := .complete 0x0100#16 :: s.trace }) ∧
  (∀ (s t : State) (op : Byte) (r : Half), HandshakeInv s → s.resetLine = false → s.ctl = .busy op →
    step s = .next t → t.trace = .complete r :: s.trace → r.extractLsb' 8 8 = 0x01#8 →
    s.point = .start ∧ (∃ e, decode s.req = .error e) ∧ r = 0x0100#16)

/-- NOT_CONFIGURED (R214): before INIT_BUS every other request is refused before any pin event, and nothing else is answered
with status 0x02. -/
def Obligations.NotConfiguredOnlyByAdmission : Prop :=
  (∀ (i : Instr) (s : State), i.opcode ≠ 0x01#8 → s.point = .start → s.configured = false →
    exec i s = .next { s with
      resp := 0x0200#16, respValid := true, ctl := .idle, trace := .complete 0x0200#16 :: s.trace }) ∧
  (∀ (s t : State) (op : Byte) (r : Half), HandshakeInv s → s.resetLine = false → s.ctl = .busy op →
    step s = .next t → t.trace = .complete r :: s.trace → r.extractLsb' 8 8 = 0x02#8 →
    s.point = .start ∧ s.configured = false ∧ op ≠ 0x01#8)

/-- The STATUS word, field by field (R49), with the codes of `init_phase` (R43). -/
def Obligations.StatusWordFields : Prop :=
  ∀ s : State,
    s.status.getLsbD 0 = s.busy ∧ s.status.getLsbD 1 = s.configured ∧
    (s.status.getLsbD 2 = true ↔ s.csN = .driven false) ∧ s.status.getLsbD 3 = s.respValid ∧
    s.status.extractLsb' 4 4 = s.initPhase.code ∧ s.status.extractLsb' 8 4 = s.attempt ∧
    s.status.extractLsb' 12 4 = 0#4 ∧
    InitPhase.uninit.code = 0 ∧ InitPhase.prefixClocking.code = 1 ∧ InitPhase.idleCmd.code = 2 ∧
    InitPhase.idleBackoff.code = 3 ∧ InitPhase.opcondCmd.code = 4 ∧ InitPhase.opcondBackoff.code = 5 ∧
    InitPhase.blocklen.code = 6 ∧ InitPhase.ready.code = 7 ∧ InitPhase.failed.code = 8

/-- The pseudo-instructions have exactly the semantics of their expansion (R97, R154). -/
def Obligations.PseudoInstructionsRunAsTheirExpansion : Prop :=
  ∀ (i : Instr) (s : State), exec i s = exec i.expand s

/-! ### The transport -/

/-- INIT_BUS (R111): CS_N 1, SCLK 0, MOSI 1, then configured with response 0x0000, four steps, nothing else changed. -/
def Obligations.InitBusRuns : Prop :=
  ∀ s : State, s.point = .start →
    exec .initBus s = .next { s with
      csN := .driven true, trace := .pin .csN true :: s.trace, point := .within .initSclk } ∧
    execTimes .initBus 4 s = .next { s with
      csN := .driven true, sclk := .driven false, mosi := .driven true, configured := true,
      resp := 0x0000#16, respValid := true, ctl := .idle,
      trace := .complete 0x0000#16 :: .pin .mosi true :: .pin .sclk false :: .pin .csN true :: s.trace }

/-- SELECT and DESELECT (R112, R113): one CS_N write, then response 0x0000, nothing else changed. -/
def Obligations.SelectAndDeselectRun : Prop :=
  ∀ s : State, s.point = .start → s.configured = true →
    exec .select s = .next { s with
      csN := .driven false, trace := .pin .csN false :: s.trace, point := .within .acknowledge } ∧
    execTimes .select 2 s = .next { s with
      csN := .driven false, resp := 0x0000#16, respValid := true, ctl := .idle,
      trace := .complete 0x0000#16 :: .pin .csN false :: s.trace } ∧
    exec .deselect s = .next { s with
      csN := .driven true, trace := .pin .csN true :: s.trace, point := .within .acknowledge } ∧
    execTimes .deselect 2 s = .next { s with
      csN := .driven true, resp := 0x0000#16, respValid := true, ctl := .idle,
      trace := .complete 0x0000#16 :: .pin .csN true :: s.trace }

/-- The frame of INIT_BUS, SELECT and DESELECT, step by step in any environment: the shift registers, the engine, the channel,
the initialiser, the environment's lines and the request stay; SELECT and DESELECT leave SCLK, MOSI and configured too. -/
def Obligations.BusRequestsFrame : Prop :=
  ∀ (i : Instr) (s t : State), i ∈ [Instr.initBus, .select, .deselect] → StandsIn i s → exec i s = .next t →
    t.txSr = s.txSr ∧ t.rxSr = s.rxSr ∧ t.bitIdx = s.bitIdx ∧ t.eng = s.eng ∧ t.pollCnt = s.pollCnt ∧
    t.chan = s.chan ∧ t.initPhase = s.initPhase ∧ t.prefixLeft = s.prefixLeft ∧ t.attempt = s.attempt ∧
    t.outcome = s.outcome ∧ t.outcomeValid = s.outcomeValid ∧ t.req = s.req ∧ t.cfg = s.cfg ∧ t.miso = s.miso ∧
    t.xferDone = s.xferDone ∧ t.host = s.host ∧
    (i ≠ .initBus → t.sclk = s.sclk ∧ t.mosi = s.mosi ∧ t.configured = s.configured)

/-- XCHG and FILL begin (R114, R116): tx_sr takes the byte, bit 7 is driven, nothing else changes. -/
def Obligations.XchgBegins : Prop :=
  ∀ (i : Instr) (out : Byte) (s : State), i.expand = .xchg out → s.point = .start → s.configured = true →
    exec i s = .next { s with
      txSr := out, bitIdx := 7, mosi := .driven (out.getLsbD 7), trace := .pin .mosi (out.getLsbD 7) :: s.trace,
      point := .within (.xfer .rise .raw) }

/-- The rest of a bit (R116), whatever MISO reads. Completion seen at the first poll: SCLK 1, settle, poll, sample, SCLK 0, and
the sample lands in the bit of rx_sr that is being sent. Completion seen after `m` samples of 0, fewer than any limit: `m` more
polls and the rest the same (R117, R118). And the two steps after the wait, in any environment: that rx_sr is written in the
sample's own step, and not with the SCLK write that follows it, is the model's reading of R17 (log 3), not R116's words. With a
poll limit poll_cnt is the count of zeros (R118, R37); without one it is not written, the model's reading of R37 (log 12). -/
def Obligations.PulseOfABit : Prop :=
  (∀ (i : Instr) (site : Site) (s : State), s.point = .within (.xfer .rise site) → DoneAtOnce s →
    let before := Event.sample .xferDone true :: .delay .settle :: .pin .sclk true :: s.trace
    let m := s.miso.level (Config.freeLevel .miso before)
    execTimes i 5 s = .next { s with
      sclk := .driven false, eng := .poll, pollCnt := if s.cfg.pollLimit.isSome then 0 else s.pollCnt,
      rxSr := putBit s.rxSr s.bitIdx m, miso := s.miso.next,
      trace := .pin .sclk false :: .sample .miso m :: before, point := .within (.fallen site) }) ∧
  (∀ (i : Instr) (site : Site) (s : State) (m : Nat), s.point = .within (.xfer .poll site) →
    (∀ k, k < m → s.doneAfter k = false) → s.doneAfter m = true → (∀ n, s.cfg.pollLimit = some n → m < n) →
    let before := Event.sample .xferDone true :: (List.replicate m (.sample .xferDone false) ++ s.trace)
    let v := s.miso.level (Config.freeLevel .miso before)
    execTimes i (m + 3) s = .next { s with
      sclk := .driven false, eng := .poll, pollCnt := if s.cfg.pollLimit.isSome then m else s.pollCnt,
      rxSr := putBit s.rxSr s.bitIdx v, miso := s.miso.next,
      xferDone := ⟨s.xferDone.script.drop (m + 1), s.xferDone.steady⟩,
      trace := .pin .sclk false :: .sample .miso v :: before, point := .within (.fallen site) }) ∧
  (∀ (i : Instr) (site : Site) (s : State), s.point = .within (.xfer .sample site) →
    let v := s.miso.level (Config.freeLevel .miso s.trace)
    exec i s = .next { s with
      rxSr := putBit s.rxSr s.bitIdx v, miso := s.miso.next, trace := .sample .miso v :: s.trace,
      point := .within (.xfer .fall site) }) ∧
  (∀ (i : Instr) (site : Site) (s : State), s.point = .within (.xfer .fall site) →
    exec i s = .next { s with
      sclk := .driven false, trace := .pin .sclk false :: s.trace, point := .within (.fallen site) })

/-- A whole XCHG (or FILL) whose every bit completes at the first poll (R114, R116, R120, R121): 49 steps, the events of R116
most significant bit first, the response the byte of the eight MISO samples; CS_N and everything else unchanged. With a poll
limit poll_cnt is 0 (R118, R37); without one it is not written, which is the model's reading of R37 (log 12). -/
def Obligations.XchgRunsToItsResponse : Prop :=
  ∀ (i : Instr) (out : Byte) (s : State), i.expand = .xchg out → s.point = .start → s.configured = true →
    DoneAtOnce s → MisoGiven s →
    execTimes i 49 s = .next { s with
      sclk := .driven false, mosi := .driven (out.getLsbD 0), txSr := out, rxSr := s.miso.byte, bitIdx := 0,
      eng := .idle, pollCnt := if s.cfg.pollLimit.isSome then 0 else s.pollCnt, miso := s.miso.skip 8,
      resp := 0x00#8 ++ s.miso.byte, respValid := true, ctl := .idle, point := .start,
      trace := .complete (0x00#8 ++ s.miso.byte) :: ((exchangeEvents out s.miso.byte).reverse ++ s.trace) }

/-- The frame of XCHG and FILL, step by step in any environment (R114, R119): CS_N, configured, the channel, the initialiser
and the request stay. -/
def Obligations.XchgFrame : Prop :=
  ∀ (i : Instr) (s t : State), i.opcode = 0x04#8 → StandsIn i s → exec i s = .next t →
    t.csN = s.csN ∧ t.configured = s.configured ∧ t.chan = s.chan ∧ t.initPhase = s.initPhase ∧
    t.prefixLeft = s.prefixLeft ∧ t.attempt = s.attempt ∧ t.outcome = s.outcome ∧
    t.outcomeValid = s.outcomeValid ∧ t.req = s.req ∧ t.cfg = s.cfg ∧ t.host = s.host ∧
    (∀ d, t.trace ≠ .diag d :: s.trace)

/-- One poll with no limit (R117): a sample of 1 ends the wait, a sample of 0 polls again, for ever if need be. -/
def Obligations.UnboundedPoll : Prop :=
  ∀ (i : Instr) (site : Site) (s : State), s.cfg.pollLimit = none →
    let d := s.xferDone.level (Config.freeLevel .xferDone s.trace)
    (s.point = .within (.xfer .poll site) →
      exec i s = .next { s with
        eng := .poll, xferDone := s.xferDone.next, trace := .sample .xferDone d :: s.trace,
        point := .within (.xfer (if d then .sample else .repoll) site) }) ∧
    (s.point = .within (.xfer .repoll site) →
      exec i s = .next { s with
        xferDone := s.xferDone.next, trace := .sample .xferDone d :: s.trace,
        point := .within (.xfer (if d then .sample else .repoll) site) })

/-- The hang (R216): with no limit and an XFER_DONE that never reads 1, the running request never completes. -/
def Obligations.HangNeverCompletes : Prop :=
  ∀ (s : State) (op : Byte) (i : Instr) (site : Site), s.resetLine = false → s.ctl = .busy op →
    decode s.req = .ok i → s.cfg.pollLimit = none → DoneNever s →
    s.point = .within (.xfer .poll site) ∨ (s.point = .within (.xfer .repoll site) ∧ s.eng = .poll) →
    ∀ n, ∃ t, run n s = .next t ∧ t.busy = true ∧ t.respValid = s.respValid ∧ t.resp = s.resp ∧
      (n ≠ 0 → t.eng = .poll) ∧ t.trace = List.replicate n (.sample .xferDone false) ++ s.trace

/-- The poll limit N (R118): N samples of 0 in one bit, exactly N events, then SCLK is left at 0 and the wait is given up,
whatever the line would read later. Poll by poll: the first one counts from 0, one below the limit counts the 0 before it and
samples again, a sample of 1 ends the wait, and at the limit SCLK is left at 0. -/
def Obligations.PollLimitEndsTheWait : Prop :=
  (∀ (i : Instr) (site : Site) (s : State) (n : Nat), s.cfg.pollLimit = some n → n ≠ 0 →
    (∀ m, m < n → s.doneAfter m = false) → s.point = .within (.xfer .poll site) →
    execTimes i (n + 1) s = .next { s with
      eng := .poll, pollCnt := n, sclk := .driven false,
      xferDone := ⟨s.xferDone.script.drop n, s.xferDone.steady⟩,
      trace := .pin .sclk false :: (List.replicate n (.sample .xferDone false) ++ s.trace),
      point := .within (.timedOut site) }) ∧
  (∀ (i : Instr) (site : Site) (s : State) (n : Nat), s.cfg.pollLimit = some n →
    let d := s.xferDone.level (Config.freeLevel .xferDone s.trace)
    (s.point = .within (.xfer .poll site) →
      exec i s = .next { s with
        eng := .poll, pollCnt := 0, xferDone := s.xferDone.next, trace := .sample .xferDone d :: s.trace,
        point := .within (.xfer (if d then .sample else .repoll) site) }) ∧
    (s.point = .within (.xfer .repoll site) → s.pollCnt + 1 ≠ n →
      exec i s = .next { s with
        pollCnt := s.pollCnt + 1, xferDone := s.xferDone.next, trace := .sample .xferDone d :: s.trace,
        point := .within (.xfer (if d then .sample else .repoll) site) }) ∧
    (s.point = .within (.xfer .repoll site) → s.pollCnt + 1 = n →
      exec i s = .next { s with
        pollCnt := n, sclk := .driven false, trace := .pin .sclk false :: s.trace,
        point := .within (.timedOut site) }))

/-- A timed-out XCHG completes with 0x0300 and CS_N unchanged; a timed-out SEND_CMD releases CS_N once, then completes with
0x0300 (R114, R140, R143). The value left in rx_sr and in the channel is not spoken of: it is a free value (log 8). -/
def Obligations.TimeoutOfXchgAndSendCmd : Prop :=
  (∀ (i : Instr) (s : State), s.point = .within (.timedOut .raw) →
    ∃ t, exec i s = .next t ∧ t.resp = 0x0300#16 ∧ t.respValid = true ∧ t.ctl = .idle ∧ t.eng = .idle ∧
      t.csN = s.csN ∧ t.trace = .complete 0x0300#16 :: s.trace) ∧
  (∀ (i : Instr) (s : State) (site : Site), site ∈ [.frame .host, .window .host] →
    s.point = .within (.timedOut site) →
    ∃ t, execTimes i 2 s = .next t ∧ t.resp = 0x0300#16 ∧ t.respValid = true ∧ t.ctl = .idle ∧ t.eng = .idle ∧
      t.csN = .driven true ∧ t.trace = .complete 0x0300#16 :: .pin .csN true :: s.trace)

/-- A timeout inside CARD_INIT ends it at once (R188): CS_N released by the command if inside one and by the handler in every
case, FAILED, outcome -4, response 0x03FC. With POLL_LIMIT NONE no instruction comes to a timeout. -/
def Obligations.TimeoutEndsCardInit : Prop :=
  (∀ s : State, s.point = .within (.timedOut .prefixByte) →
    ∃ t, execTimes .cardInit 2 s = .next t ∧ t.csN = .driven true ∧ t.initPhase = .failed ∧
      t.readOutcome = some (-4) ∧ t.resp = 0x03FC#16 ∧ t.respValid = true ∧ t.ctl = .idle ∧
      t.trace = .complete 0x03FC#16 :: .pin .csN true :: s.trace) ∧
  (∀ (s : State) (c : Caller) (site : Site), c ≠ .host → site ∈ [.frame c, .window c] →
    s.point = .within (.timedOut site) →
    ∃ t, execTimes .cardInit 3 s = .next t ∧ t.csN = .driven true ∧ t.initPhase = .failed ∧
      t.readOutcome = some (-4) ∧ t.resp = 0x03FC#16 ∧ t.respValid = true ∧ t.ctl = .idle ∧
      t.trace = .complete 0x03FC#16 :: .pin .csN true :: .pin .csN true :: s.trace) ∧
  (∀ (i : Instr) (s t : State) (site : Site), s.cfg.pollLimit = none → exec i s = .next t →
    t.point ≠ .within (.timedOut site))

/-! ### Invariants -/

/-- The four invariants hold right after reset. -/
def Obligations.InvariantsHoldAtReset : Prop :=
  HandshakeInv State.reset ∧ BusInv State.reset ∧ TransferInv State.reset ∧ InitInv State.reset

/-- Every step keeps the handshake invariant (R42, R47, R48, R82). -/
def Obligations.StepKeepsHandshakeInv : Prop :=
  ∀ s t : State, HandshakeInv s → step s = .next t → HandshakeInv t

/-- Every step keeps the bus invariant (R31, R33, R36, R110, R116, R145, R146, R173). -/
def Obligations.StepKeepsBusInv : Prop :=
  ∀ s t : State, HandshakeInv s → BusInv s → step s = .next t → BusInv t

/-- Every step keeps the transfer invariant (R37, R38, R39, R44, R141, R145, R146, R173, R215). -/
def Obligations.StepKeepsTransferInv : Prop :=
  ∀ s t : State, s.cfg.valid = true → TransferInv s → step s = .next t → TransferInv t

/-- Every step keeps the initialiser invariant (R43, R45, R46, R172, R192, R237). -/
def Obligations.StepKeepsInitInv : Prop :=
  ∀ s t : State, s.cfg.valid = true → HandshakeInv s → InitInv s → step s = .next t → InitInv t

/-! ### Whole-machine rules -/

/-- A step records exactly one event, or is an idle block's wait that changes nothing; no step writes the configuration
(R9, R17, R68). The idle wait is the model's choice (log 6), and that a disabled Emit takes no step is its reading of R17
(log 9). -/
def Obligations.OneEventPerStep : Prop :=
  ∀ s t : State, step s = .next t →
    t.cfg = s.cfg ∧
    ((s.resetLine = false ∧ s.ctl = .idle ∧ s.host = [] ∧ t = s) ∨ ∃ e, t.trace = e :: s.trace)

/-- Only PinWrite changes an output level; after reset every output is Z; INIT_BUS makes all three driven (R31). -/
def Obligations.OutputsChangeOnlyByPinWrite : Prop :=
  (∀ (s t : State) (p : OutPin), s.resetLine = false → step s = .next t →
    t.level p = s.level p ∨ ∃ v, t.level p = .driven v ∧ t.trace = .pin p v :: s.trace) ∧
  (∀ (s t : State) (p : OutPin) (v : Bool), step s = .next t → t.trace = .pin p v :: s.trace → t.level p = .driven v) ∧
  (∀ (s t : State) (p : OutPin), s.resetLine = true → step s = .next t → t.level p = .z) ∧
  (∀ (s : State) (p : OutPin), s.point = .start →
    ∃ t v, execTimes .initBus 4 s = .next t ∧ t.level p = .driven v)

/-- configured is written 1 only by INIT_BUS, as it completes, and 0 only by reset (R33). -/
def Obligations.ConfiguredIsWrittenOnlyByInitBus : Prop :=
  ∀ s t : State, HandshakeInv s → step s = .next t → t.configured ≠ s.configured →
    (s.resetLine = true ∧ t.configured = false) ∨
    (s.resetLine = false ∧ s.ctl = .busy 0x01#8 ∧ t.ctl = .idle ∧ t.configured = true ∧ t.resp = 0x0000#16)

/-- Only CARD_INIT and reset write the initialiser's registers (R43, R140). -/
def Obligations.OnlyCardInitWritesItsRegisters : Prop :=
  ∀ s t : State, HandshakeInv s → s.resetLine = false → step s = .next t → s.ctl ≠ .busy 0x06#8 →
    t.initPhase = s.initPhase ∧ t.prefixLeft = s.prefixLeft ∧ t.attempt = s.attempt ∧ t.outcome = s.outcome ∧
    t.outcomeValid = s.outcomeValid

/-- SEND_CMD and CARD_INIT, once admitted, always end with CS_N = 1 (R253 (a)). -/
def Obligations.CommandsEndDeselected : Prop :=
  ∀ (s t : State) (op : Byte) (g : Seg), HandshakeInv s → BusInv s → s.resetLine = false → s.ctl = .busy op →
    op = 0x05#8 ∨ op = 0x06#8 → s.point = .within g → step s = .next t → t.ctl = .idle → t.csN = .driven true

/-- Every request completes (R259): under DoneLive (R251) or with a poll limit, from every state of a running request. R259's
bound on the exchanges is not stated here. -/
def Obligations.EveryRequestCompletes : Prop :=
  ∀ (s : State) (op : Byte), s.cfg.valid = true → TransferInv s → s.resetLine = false → s.ctl = .busy op →
    DoneLive s ∨ s.cfg.pollLimit ≠ none →
    ∃ n t, run n s = .next t ∧ t.ctl = .idle ∧ t.respValid = true ∧ ∃ es, t.trace = .complete t.resp :: es ++ s.trace

/-- Diagnostics never steer (R155, R229): the same request with DIAG_ENABLE set to any value gives the same response and, the
diagnostic events apart, the same history. -/
def Obligations.DiagnosticsDoNotSteer : Prop :=
  ∀ (i : Instr) (s : State) (b : Bool), s.ctl = .busy i.opcode → s.point = .start → s.configured = true → DoneAtOnce s → MisoGiven s →
    s.cfg.valid = true →
    ∃ n t n' t', execTimes i n s = .next t ∧
      execTimes i n' { s with cfg := { s.cfg with diagEnable := b } } = .next t' ∧
      t.ctl = .idle ∧ t'.ctl = .idle ∧ t'.resp = t.resp ∧ t'.miso = t.miso ∧
      (eventsSince s t').filter (fun e => !e.isDiag) = (eventsSince s t).filter (fun e => !e.isDiag)

/-! ### The command channel -/

/-- The frame encoder (R144). -/
def Obligations.FrameEncoder : Prop :=
  ∀ ch : Channel,
    ch.frameByte 0 = ch.fCmd ∧ ch.frameByte 1 = ch.fArg.extractLsb' 24 8 ∧
    ch.frameByte 2 = ch.fArg.extractLsb' 16 8 ∧ ch.frameByte 3 = ch.fArg.extractLsb' 8 8 ∧
    ch.frameByte 4 = ch.fArg.extractLsb' 0 8 ∧ ch.frameByte 5 = ch.fCrc

/-- The response-scan law (R148): folding the scanner's step over a window gives the last byte that is not 0xFF, or 0xFF. -/
def Obligations.ScannerTakesTheLastNonFiller : Prop :=
  ∀ bs : List Byte,
    bs.foldl scanStep 0xFF#8 = scan bs ∧
    scan bs = ((bs.filter fun b => b ≠ 0xFF#8).getLast?).getD 0xFF#8

/-- The scanner register in the machine (R147): 0xFF at the start of the window, each window byte that is not 0xFF after it,
and SEND_CMD's result at its end. With DIAG_ENABLE off the scan and the completion fall in the step that leaves the exchange or
the release, because a disabled Emit takes no step (log 9). -/
def Obligations.ScannerRegister : Prop :=
  (∀ (i : Instr) (c : Caller) (s : State), s.point = .within (.fallen (.frame c)) → s.bitIdx = 0 →
    s.chan.frameIdx = 5 →
    ∃ t, exec i s = .next t ∧ t.chan.scanLast = 0xFF#8 ∧ t.chan.winLeft = s.chan.fWin) ∧
  (∀ (i : Instr) (c : Caller) (s : State),
    (s.cfg.diagEnable = false ∧ s.point = .within (.fallen (.window c)) ∧ s.bitIdx = 0) ∨
      s.point = .within (.mirrored c) →
    ∃ t, exec i s = .next t ∧ t.chan.scanLast = (if s.rxSr = 0xFF#8 then s.chan.scanLast else s.rxSr) ∧
      t.chan.winLeft = s.chan.winLeft - 1) ∧
  (∀ (i : Instr) (s : State),
    (s.cfg.diagEnable = false ∧ s.point = .within (.released .host)) ∨ s.point = .within (.ended .host) →
    ∃ t, exec i s = .next t ∧ t.ctl = .idle ∧ t.resp = 0x00#8 ++ s.chan.scanLast)

/-- SEND_CMD and its pseudo-instructions begin (R87, R140, R143): the command is latched; with DIAG_ENABLE the command byte is
emitted first, then CS_N is asserted. With DIAG_ENABLE off the first step asserts CS_N, because a disabled Emit takes no step
(log 9). -/
def Obligations.SendCmdBegins : Prop :=
  ∀ (i : Instr) (cmd : Byte) (arg : Arg) (crc win : Byte) (s : State), i.expand = .sendCmd cmd arg crc win →
    s.point = .start → s.configured = true →
    let ch := { s.chan with fCmd := cmd, fArg := arg, fCrc := crc, fWin := win }
    (s.cfg.diagEnable = false →
      exec i s = .next { s with
        chan := ch, csN := .driven false, trace := .pin .csN false :: s.trace, point := .within (.selected .host) }) ∧
    (s.cfg.diagEnable = true →
      exec i s = .next { s with
        chan := ch, trace := .diag (.cmd cmd) :: s.trace, point := .within (.announced .host) } ∧
      execTimes i 2 s = .next { s with
        chan := ch, csN := .driven false, trace := .pin .csN false :: .diag (.cmd cmd) :: s.trace,
        point := .within (.selected .host) })

/-- A whole SEND_CMD (or pseudo-instruction) whose every bit completes at the first poll (R140, R143, R145 to R148, R155): the
history is exactly the pseudocode's, the response is the scan of the window, CS_N ends at 1. -/
def Obligations.SendCmdRunsToItsResponse : Prop :=
  ∀ (i : Instr) (cmd : Byte) (arg : Arg) (crc win : Byte) (s : State), i.expand = .sendCmd cmd arg crc win →
    s.point = .start → s.configured = true → DoneAtOnce s → MisoGiven s →
    let k : Command := ⟨cmd, arg, crc, win⟩
    ∃ n t, execTimes i n s = .next t ∧
      t.resp = 0x00#8 ++ commandResult k s.miso ∧ t.respValid = true ∧ t.ctl = .idle ∧ t.point = .start ∧
      t.csN = .driven true ∧ t.sclk = .driven false ∧ t.eng = .idle ∧ t.miso = commandLine k s.miso ∧
      t.xferDone = s.xferDone ∧ t.configured = s.configured ∧ t.initPhase = s.initPhase ∧
      t.attempt = s.attempt ∧ t.prefixLeft = s.prefixLeft ∧ t.outcome = s.outcome ∧
      t.outcomeValid = s.outcomeValid ∧ t.req = s.req ∧ t.cfg = s.cfg ∧ t.host = s.host ∧
      t.history = s.history ++ commandEvents s.cfg.diagEnable k s.miso ++
        [.complete (0x00#8 ++ commandResult k s.miso)]

/-- The empty window (R149): the frame is sent between an assert and a release, no window exchange follows, the result is
0xFF. -/
def Obligations.EmptyWindowReturnsFiller : Prop :=
  ∀ (cmd : Byte) (arg : Arg) (crc : Byte) (s : State), s.point = .start → s.configured = true → DoneAtOnce s →
    MisoGiven s → s.cfg.diagEnable = false →
    ∃ n t, execTimes (.sendCmd cmd arg crc 0#8) n s = .next t ∧ t.ctl = .idle ∧ t.resp = 0x00FF#16 ∧
      eventsSince s t = [.pin .csN false] ++
        (List.zipWith exchangeEvents (Command.frame ⟨cmd, arg, crc, 0#8⟩) (s.miso.bytes 6)).flatten ++
        [.pin .csN true, .complete 0x00FF#16]

/-- The bytes a SEND_CMD puts on the wire, in the byte-level view (R69, R92, R146): asserted, the six frame bytes, `win`
fillers, released. -/
def Obligations.SendCmdBytesOnTheWire : Prop :=
  ∀ (i : Instr) (cmd : Byte) (arg : Arg) (crc win : Byte) (s : State), i.expand = .sendCmd cmd arg crc win →
    s.point = .start → s.configured = true → DoneAtOnce s → MisoGiven s →
    ∃ n t, execTimes i n s = .next t ∧ t.ctl = .idle ∧
      byteView [] none (eventsSince s t) =
        [.cs false] ++
        List.zipWith ByteEvent.xchg [cmd, arg.extractLsb' 24 8, arg.extractLsb' 16 8, arg.extractLsb' 8 8,
          arg.extractLsb' 0 8, crc] (s.miso.bytes 6) ++
        ((s.miso.skip 48).bytes win.toNat).map (ByteEvent.xchg 0xFF#8) ++ [.cs true]

/-- Chip-select discipline (R151): in every environment, a SEND_CMD that ends has driven CS_N low exactly once, as its first pin
event, and high exactly once, as its last. -/
def Obligations.ChipSelectOncePerCommand : Prop :=
  ∀ (s t : State) (op : Byte) (i : Instr) (n : Nat), s.resetLine = false → s.host = [] → s.ctl = .busy op →
    s.point = .start → s.configured = true → decode s.req = .ok i → i.opcode = 0x05#8 →
    run n s = .next t → t.ctl = .idle →
    pinLevels .csN (eventsSince s t) = [false, true] ∧
    (pinEvents (eventsSince s t)).head? = some (.csN, false) ∧
    (pinEvents (eventsSince s t)).getLast? = some (.csN, true) ∧ t.csN = .driven true

/-- The frame of SEND_CMD and its pseudo-instructions, step by step in any environment (R140): configured, the initialiser and
the request stay. -/
def Obligations.SendCmdFrame : Prop :=
  ∀ (i : Instr) (s t : State), i.opcode = 0x05#8 → StandsIn i s → exec i s = .next t →
    t.configured = s.configured ∧ t.initPhase = s.initPhase ∧ t.prefixLeft = s.prefixLeft ∧
    t.attempt = s.attempt ∧ t.outcome = s.outcome ∧ t.outcomeValid = s.outcomeValid ∧ t.req = s.req ∧
    t.cfg = s.cfg ∧ t.host = s.host

/-! ### The card initialiser -/

/-- CARD_INIT begins (R173, R174, R185): PREFIX, CS_N 1, then the prefix count. -/
def Obligations.CardInitBegins : Prop :=
  ∀ s : State, s.point = .start → s.configured = true →
    exec .cardInit s = .next { s with
      initPhase := .prefixClocking, csN := .driven true, trace := .pin .csN true :: s.trace,
      point := .within .prefixStart } ∧
    (s.cfg.prefixBytes ≠ 0 →
      execTimes .cardInit 2 s = .next { s with
        initPhase := .prefixClocking, csN := .driven true, prefixLeft := s.cfg.prefixBytes, txSr := 0xFF#8,
        bitIdx := 7, mosi := .driven true, trace := .pin .mosi true :: .pin .csN true :: s.trace,
        point := .within (.xfer .rise .prefixByte) })

/-- GO_IDLE_STATE succeeds exactly on 0x01 and SEND_OP_COND exactly on 0x00; any other result waits a backoff with the count
of attempts kept (R176, R177, R180). With DIAG_ENABLE off the command returns in the step after the release of CS_N, because a
disabled Emit takes no step (log 9). -/
def Obligations.RetryResultsDecide : Prop :=
  (∀ s : State,
    (s.cfg.diagEnable = false ∧ s.point = .within (.released .idle)) ∨ s.point = .within (.ended .idle) →
    ∃ t, exec .cardInit s = .next t ∧
      (s.chan.scanLast = 0x01#8 → t.initPhase = .opcondCmd ∧ t.attempt = 1 ∧ t.chan.fCmd = 0x41#8) ∧
      (s.chan.scanLast ≠ 0x01#8 → t.initPhase = .idleBackoff ∧ t.attempt = s.attempt ∧
        t.trace = .delay .backoff :: s.trace)) ∧
  (∀ s : State,
    (s.cfg.diagEnable = false ∧ s.point = .within (.released .opcond)) ∨ s.point = .within (.ended .opcond) →
    ∃ t, exec .cardInit s = .next t ∧
      (s.chan.scanLast = 0x00#8 → t.initPhase = .blocklen ∧ t.attempt = s.attempt ∧ t.chan.fCmd = 0x50#8) ∧
      (s.chan.scanLast ≠ 0x00#8 → t.initPhase = .opcondBackoff ∧ t.attempt = s.attempt ∧
        t.trace = .delay .backoff :: s.trace))

/-- The retry limits (R178, R181): after the backoff of the last allowed attempt CARD_INIT ends with Failed(-1) or Failed(-2);
after an earlier one it sends the same command again, one attempt further. -/
def Obligations.RetryLimitsEndTheLoops : Prop :=
  (∀ s : State, s.point = .within .idleBackedOff →
    ∃ t, exec .cardInit s = .next t ∧
      (s.attempt = s.cfg.idleRetryLimit → t.ctl = .idle ∧ t.resp = 0x00FF#16 ∧ t.initPhase = .failed ∧
        t.readOutcome = some (-1) ∧ t.trace = .complete 0x00FF#16 :: s.trace) ∧
      (s.attempt ≠ s.cfg.idleRetryLimit → t.initPhase = .idleCmd ∧ t.attempt = s.attempt + 1 ∧
        t.chan.fCmd = 0x40#8 ∧ t.ctl = s.ctl)) ∧
  (∀ s : State, s.point = .within .opcondBackedOff →
    ∃ t, exec .cardInit s = .next t ∧
      (s.attempt = s.cfg.opcondRetryLimit → t.ctl = .idle ∧ t.resp = 0x00FE#16 ∧ t.initPhase = .failed ∧
        t.readOutcome = some (-2) ∧ t.trace = .complete 0x00FE#16 :: s.trace) ∧
      (s.attempt ≠ s.cfg.opcondRetryLimit → t.initPhase = .opcondCmd ∧ t.attempt = s.attempt + 1 ∧
        t.chan.fCmd = 0x41#8 ∧ t.ctl = s.ctl))

/-- SET_BLOCKLEN's result (R182, R183, R184): ignored by default, Failed(-3) with BLOCKLEN_CHECK if it is not 0x00. With
DIAG_ENABLE off it decides in the step after the release of CS_N, because a disabled Emit takes no step (log 9). -/
def Obligations.BlocklenResultDecides : Prop :=
  ∀ s : State,
    (s.cfg.diagEnable = false → s.point = .within (.released .blocklen) →
      ∃ t, exec .cardInit s = .next t ∧ t.ctl = .idle ∧ t.respValid = true ∧
        (s.cfg.blocklenCheck = false ∨ s.chan.scanLast = 0x00#8 →
          t.resp = 0x0000#16 ∧ t.initPhase = .ready ∧ t.readOutcome = some 0) ∧
        (s.cfg.blocklenCheck = true → s.chan.scanLast ≠ 0x00#8 →
          t.resp = 0x00FD#16 ∧ t.initPhase = .failed ∧ t.readOutcome = some (-3))) ∧
    (s.cfg.diagEnable = true → s.point = .within (.ended .blocklen) →
      ∃ t, exec .cardInit s = .next t ∧ t.trace = .diag (.blocklen s.chan.scanLast) :: s.trace ∧
        t.point = .within (.reported s.chan.scanLast)) ∧
    (∀ r, s.point = .within (.reported r) →
      ∃ t, exec .cardInit s = .next t ∧ t.ctl = .idle ∧ t.respValid = true ∧
        (s.cfg.blocklenCheck = false ∨ r = 0x00#8 →
          t.resp = 0x0000#16 ∧ t.initPhase = .ready ∧ t.readOutcome = some 0) ∧
        (s.cfg.blocklenCheck = true → r ≠ 0x00#8 →
          t.resp = 0x00FD#16 ∧ t.initPhase = .failed ∧ t.readOutcome = some (-3)))

/-- A whole CARD_INIT whose every bit completes at the first poll is the pseudocode of R185 run big-step on the same MISO
samples: same events, same outcome, same attempts. -/
def Obligations.CardInitRunsItsPseudocode : Prop :=
  ∀ s : State, s.point = .start → s.configured = true → DoneAtOnce s → MisoGiven s → s.cfg.valid = true →
    let r := cardInitRun s.cfg s.miso
    ∃ n t, execTimes .cardInit n s = .next t ∧
      t.resp = 0x00#8 ++ r.outcome.byte ∧ t.respValid = true ∧ t.ctl = .idle ∧ t.point = .start ∧
      t.initPhase = r.outcome.phase ∧ t.outcome = r.outcome.byte ∧ t.outcomeValid = true ∧
      t.attempt.toNat = r.attempts ∧ t.miso = r.line ∧ t.csN = .driven true ∧ t.sclk = .driven false ∧
      t.eng = .idle ∧ t.configured = true ∧ t.cfg = s.cfg ∧ t.req = s.req ∧ t.host = s.host ∧
      t.history = s.history ++ r.events ++ [.complete (0x00#8 ++ r.outcome.byte)]

/-- A card that holds MISO at 1 never answers: every GO_IDLE_STATE attempt allowed is made and backed off from, then
Failed(-1), for every valid configuration (R178, 95_test_vectors.md W7). -/
def Obligations.SilentCardExhaustsTheIdleLoop : Prop :=
  ∀ s : State, s.point = .start → s.configured = true → DoneAtOnce s → s.miso = ⟨[], some true⟩ →
    s.cfg.valid = true →
    ∃ n t, execTimes .cardInit n s = .next t ∧ t.ctl = .idle ∧ t.resp = 0x00FF#16 ∧ t.initPhase = .failed ∧
      t.readOutcome = some (-1) ∧ t.attempt = s.cfg.idleRetryLimit ∧
      backoffs (eventsSince s t) = s.cfg.idleRetryLimit.toNat ∧
      pinLevels .csN (eventsSince s t) =
        true :: (List.replicate s.cfg.idleRetryLimit.toNat [false, true]).flatten

/-- The counts of a CARD_INIT (R189, for every configuration): with `a` idle and `o` op-cond attempts, the exchanges (eight
MISO samples each), the backoffs and the chip-select pairs are those of R189's rows, and the outcome is one of 0, -1, -2, -3. -/
def Obligations.CardInitCounts : Prop :=
  ∀ s : State, s.ctl = .busy 0x06#8 → s.point = .start → s.configured = true → DoneAtOnce s → MisoGiven s → s.cfg.valid = true →
    ∃ n t a o b, execTimes .cardInit n s = .next t ∧ t.ctl = .idle ∧
      (t.readOutcome = some 0 ∨ t.readOutcome = some (-1) ∨ t.readOutcome = some (-2) ∨ t.readOutcome = some (-3)) ∧
      a ≤ s.cfg.idleRetryLimit.toNat ∧ o ≤ s.cfg.opcondRetryLimit.toNat ∧
      samples .miso (eventsSince s t) = 8 * (s.cfg.prefixBytes.toNat + a * (6 + s.cfg.winIdle.toNat) +
        o * (6 + s.cfg.winOpcond.toNat) + b * (6 + s.cfg.winBlocklen.toNat)) ∧
      pinLevels .csN (eventsSince s t) = true :: (List.replicate (a + o + b) [false, true]).flatten ∧
      (t.readOutcome = some 0 ∨ t.readOutcome = some (-3) →
        b = 1 ∧ 1 ≤ a ∧ 1 ≤ o ∧ backoffs (eventsSince s t) = (a - 1) + (o - 1)) ∧
      (t.readOutcome = some (-1) →
        b = 0 ∧ o = 0 ∧ a = s.cfg.idleRetryLimit.toNat ∧ backoffs (eventsSince s t) = a) ∧
      (t.readOutcome = some (-2) →
        b = 0 ∧ 1 ≤ a ∧ o = s.cfg.opcondRetryLimit.toNat ∧ backoffs (eventsSince s t) = (a - 1) + o)

/-- The frame of CARD_INIT, step by step in any environment (R170): configured, the request, the configuration and the host's
words stay, and until it completes so do outcome and its validity (R187). -/
def Obligations.CardInitFrame : Prop :=
  ∀ s t : State, StandsIn .cardInit s → exec .cardInit s = .next t →
    t.configured = s.configured ∧ t.req = s.req ∧ t.cfg = s.cfg ∧ t.host = s.host ∧
    ((∀ r, t.trace ≠ .complete r :: s.trace) → t.outcome = s.outcome ∧ t.outcomeValid = s.outcomeValid)

/-- The outcome codes (R237): 8-bit two's complement, recovered as signed numbers. -/
def Obligations.OutcomeCodes : Prop :=
  InitOutcome.ready.byte = 0x00#8 ∧ InitOutcome.idleExhausted.byte = 0xFF#8 ∧
  InitOutcome.opcondExhausted.byte = 0xFE#8 ∧ InitOutcome.blocklenRejected.byte = 0xFD#8 ∧
  InitOutcome.timedOut.byte = 0xFC#8 ∧
  InitOutcome.ready.code = 0 ∧ InitOutcome.idleExhausted.code = -1 ∧ InitOutcome.opcondExhausted.code = -2 ∧
  InitOutcome.blocklenRejected.code = -3 ∧ InitOutcome.timedOut.code = -4 ∧
  ∀ o : InitOutcome, o.byte.toInt = o.code

/-! ### The byte-level view -/

/-- The byte-level view of an XCHG or FILL (R69): whatever the history before its acceptance holds, an exchange that completes
adds exactly its own byte pair, and in every environment a whole request that ends with status OK adds (OUT, response data). A
whole request that ends with TIMEOUT adds nothing, which is the model's reading of R69 (log 17). -/
def Obligations.XchgIsOneByteOnTheWire : Prop :=
  (∀ (i : Instr) (out : Byte) (s : State) (w : Request) (es : List Event), i.expand = .xchg out →
    s.ctl = .busy i.opcode → s.point = .start → s.configured = true → s.trace = .accept w :: es → DoneAtOnce s →
    MisoGiven s →
    ∃ n t, execTimes i n s = .next t ∧ t.ctl = .idle ∧
      t.bytesOnWire = s.bytesOnWire ++ [.xchg out s.miso.byte]) ∧
  (∀ (s t : State) (op out : Byte) (n : Nat) (es : List Event), s.resetLine = false → s.host = [] → s.ctl = .busy op →
    s.point = .start → s.configured = true → decode s.req = .ok (.xchg out) → s.trace = .accept s.req :: es →
    run n s = .next t → t.ctl = .idle →
    (t.resp.extractLsb' 8 8 = 0x00#8 →
      t.bytesOnWire = s.bytesOnWire ++ [.xchg out (t.resp.extractLsb' 0 8)]) ∧
    (t.resp = 0x0300#16 → t.bytesOnWire = s.bytesOnWire))
end

