-- ==== Sys2Proof/Laws/State.lean ====
section
/-! SUPPORT. One lemma per field per operation: what each named operation leaves of every field of the state. -/

namespace Sys2Proof.Machine

/-! `record` appends one event. -/

@[simp] theorem record_csN (e : Event) (s : State) : (s.record e).csN = s.csN := rfl
@[simp] theorem record_sclk (e : Event) (s : State) : (s.record e).sclk = s.sclk := rfl
@[simp] theorem record_mosi (e : Event) (s : State) : (s.record e).mosi = s.mosi := rfl
@[simp] theorem record_configured (e : Event) (s : State) : (s.record e).configured = s.configured := rfl
@[simp] theorem record_txSr (e : Event) (s : State) : (s.record e).txSr = s.txSr := rfl
@[simp] theorem record_rxSr (e : Event) (s : State) : (s.record e).rxSr = s.rxSr := rfl
@[simp] theorem record_bitIdx (e : Event) (s : State) : (s.record e).bitIdx = s.bitIdx := rfl
@[simp] theorem record_eng (e : Event) (s : State) : (s.record e).eng = s.eng := rfl
@[simp] theorem record_pollCnt (e : Event) (s : State) : (s.record e).pollCnt = s.pollCnt := rfl
@[simp] theorem record_chan (e : Event) (s : State) : (s.record e).chan = s.chan := rfl
@[simp] theorem record_ctl (e : Event) (s : State) : (s.record e).ctl = s.ctl := rfl
@[simp] theorem record_point (e : Event) (s : State) : (s.record e).point = s.point := rfl
@[simp] theorem record_initPhase (e : Event) (s : State) : (s.record e).initPhase = s.initPhase := rfl
@[simp] theorem record_prefixLeft (e : Event) (s : State) : (s.record e).prefixLeft = s.prefixLeft := rfl
@[simp] theorem record_attempt (e : Event) (s : State) : (s.record e).attempt = s.attempt := rfl
@[simp] theorem record_outcome (e : Event) (s : State) : (s.record e).outcome = s.outcome := rfl
@[simp] theorem record_outcomeValid (e : Event) (s : State) : (s.record e).outcomeValid = s.outcomeValid := rfl
@[simp] theorem record_req (e : Event) (s : State) : (s.record e).req = s.req := rfl
@[simp] theorem record_resp (e : Event) (s : State) : (s.record e).resp = s.resp := rfl
@[simp] theorem record_respValid (e : Event) (s : State) : (s.record e).respValid = s.respValid := rfl
@[simp] theorem record_trace (e : Event) (s : State) : (s.record e).trace = e :: s.trace := rfl
@[simp] theorem record_cfg (e : Event) (s : State) : (s.record e).cfg = s.cfg := rfl
@[simp] theorem record_miso (e : Event) (s : State) : (s.record e).miso = s.miso := rfl
@[simp] theorem record_xferDone (e : Event) (s : State) : (s.record e).xferDone = s.xferDone := rfl
@[simp] theorem record_host (e : Event) (s : State) : (s.record e).host = s.host := rfl
@[simp] theorem record_resetLine (e : Event) (s : State) : (s.record e).resetLine = s.resetLine := rfl
@[simp] theorem record_freeCount (e : Event) (s : State) : (s.record e).freeCount = s.freeCount := rfl

/-! `goto` moves the place. -/

@[simp] theorem goto_csN (g : Seg) (s : State) : (s.goto g).csN = s.csN := rfl
@[simp] theorem goto_sclk (g : Seg) (s : State) : (s.goto g).sclk = s.sclk := rfl
@[simp] theorem goto_mosi (g : Seg) (s : State) : (s.goto g).mosi = s.mosi := rfl
@[simp] theorem goto_configured (g : Seg) (s : State) : (s.goto g).configured = s.configured := rfl
@[simp] theorem goto_txSr (g : Seg) (s : State) : (s.goto g).txSr = s.txSr := rfl
@[simp] theorem goto_rxSr (g : Seg) (s : State) : (s.goto g).rxSr = s.rxSr := rfl
@[simp] theorem goto_bitIdx (g : Seg) (s : State) : (s.goto g).bitIdx = s.bitIdx := rfl
@[simp] theorem goto_eng (g : Seg) (s : State) : (s.goto g).eng = s.eng := rfl
@[simp] theorem goto_pollCnt (g : Seg) (s : State) : (s.goto g).pollCnt = s.pollCnt := rfl
@[simp] theorem goto_chan (g : Seg) (s : State) : (s.goto g).chan = s.chan := rfl
@[simp] theorem goto_ctl (g : Seg) (s : State) : (s.goto g).ctl = s.ctl := rfl
@[simp] theorem goto_point (g : Seg) (s : State) : (s.goto g).point = .within g := rfl
@[simp] theorem goto_initPhase (g : Seg) (s : State) : (s.goto g).initPhase = s.initPhase := rfl
@[simp] theorem goto_prefixLeft (g : Seg) (s : State) : (s.goto g).prefixLeft = s.prefixLeft := rfl
@[simp] theorem goto_attempt (g : Seg) (s : State) : (s.goto g).attempt = s.attempt := rfl
@[simp] theorem goto_outcome (g : Seg) (s : State) : (s.goto g).outcome = s.outcome := rfl
@[simp] theorem goto_outcomeValid (g : Seg) (s : State) : (s.goto g).outcomeValid = s.outcomeValid := rfl
@[simp] theorem goto_req (g : Seg) (s : State) : (s.goto g).req = s.req := rfl
@[simp] theorem goto_resp (g : Seg) (s : State) : (s.goto g).resp = s.resp := rfl
@[simp] theorem goto_respValid (g : Seg) (s : State) : (s.goto g).respValid = s.respValid := rfl
@[simp] theorem goto_trace (g : Seg) (s : State) : (s.goto g).trace = s.trace := rfl
@[simp] theorem goto_cfg (g : Seg) (s : State) : (s.goto g).cfg = s.cfg := rfl
@[simp] theorem goto_miso (g : Seg) (s : State) : (s.goto g).miso = s.miso := rfl
@[simp] theorem goto_xferDone (g : Seg) (s : State) : (s.goto g).xferDone = s.xferDone := rfl
@[simp] theorem goto_host (g : Seg) (s : State) : (s.goto g).host = s.host := rfl
@[simp] theorem goto_resetLine (g : Seg) (s : State) : (s.goto g).resetLine = s.resetLine := rfl
@[simp] theorem goto_freeCount (g : Seg) (s : State) : (s.goto g).freeCount = s.freeCount := rfl

/-! `pinWrite` changes one level and records it. -/

@[simp] theorem pinWrite_configured (p : OutPin) (v : Bool) (s : State) :
    (pinWrite p v s).configured = s.configured := by cases p <;> rfl
@[simp] theorem pinWrite_txSr (p : OutPin) (v : Bool) (s : State) :
    (pinWrite p v s).txSr = s.txSr := by cases p <;> rfl
@[simp] theorem pinWrite_rxSr (p : OutPin) (v : Bool) (s : State) :
    (pinWrite p v s).rxSr = s.rxSr := by cases p <;> rfl
@[simp] theorem pinWrite_bitIdx (p : OutPin) (v : Bool) (s : State) :
    (pinWrite p v s).bitIdx = s.bitIdx := by cases p <;> rfl
@[simp] theorem pinWrite_eng (p : OutPin) (v : Bool) (s : State) : (pinWrite p v s).eng = s.eng := by cases p <;> rfl
@[simp] theorem pinWrite_pollCnt (p : OutPin) (v : Bool) (s : State) :
    (pinWrite p v s).pollCnt = s.pollCnt := by cases p <;> rfl
@[simp] theorem pinWrite_chan (p : OutPin) (v : Bool) (s : State) :
    (pinWrite p v s).chan = s.chan := by cases p <;> rfl
@[simp] theorem pinWrite_ctl (p : OutPin) (v : Bool) (s : State) : (pinWrite p v s).ctl = s.ctl := by cases p <;> rfl
@[simp] theorem pinWrite_point (p : OutPin) (v : Bool) (s : State) :
    (pinWrite p v s).point = s.point := by cases p <;> rfl
@[simp] theorem pinWrite_initPhase (p : OutPin) (v : Bool) (s : State) :
    (pinWrite p v s).initPhase = s.initPhase := by cases p <;> rfl
@[simp] theorem pinWrite_prefixLeft (p : OutPin) (v : Bool) (s : State) :
    (pinWrite p v s).prefixLeft = s.prefixLeft := by cases p <;> rfl
@[simp] theorem pinWrite_attempt (p : OutPin) (v : Bool) (s : State) :
    (pinWrite p v s).attempt = s.attempt := by cases p <;> rfl
@[simp] theorem pinWrite_outcome (p : OutPin) (v : Bool) (s : State) :
    (pinWrite p v s).outcome = s.outcome := by cases p <;> rfl
@[simp] theorem pinWrite_outcomeValid (p : OutPin) (v : Bool) (s : State) :
    (pinWrite p v s).outcomeValid = s.outcomeValid := by cases p <;> rfl
@[simp] theorem pinWrite_req (p : OutPin) (v : Bool) (s : State) : (pinWrite p v s).req = s.req := by cases p <;> rfl
@[simp] theorem pinWrite_resp (p : OutPin) (v : Bool) (s : State) :
    (pinWrite p v s).resp = s.resp := by cases p <;> rfl
@[simp] theorem pinWrite_respValid (p : OutPin) (v : Bool) (s : State) :
    (pinWrite p v s).respValid = s.respValid := by cases p <;> rfl
@[simp] theorem pinWrite_cfg (p : OutPin) (v : Bool) (s : State) : (pinWrite p v s).cfg = s.cfg := by cases p <;> rfl
@[simp] theorem pinWrite_miso (p : OutPin) (v : Bool) (s : State) :
    (pinWrite p v s).miso = s.miso := by cases p <;> rfl
@[simp] theorem pinWrite_xferDone (p : OutPin) (v : Bool) (s : State) :
    (pinWrite p v s).xferDone = s.xferDone := by cases p <;> rfl
@[simp] theorem pinWrite_host (p : OutPin) (v : Bool) (s : State) :
    (pinWrite p v s).host = s.host := by cases p <;> rfl
@[simp] theorem pinWrite_resetLine (p : OutPin) (v : Bool) (s : State) :
    (pinWrite p v s).resetLine = s.resetLine := by cases p <;> rfl
@[simp] theorem pinWrite_freeCount (p : OutPin) (v : Bool) (s : State) :
    (pinWrite p v s).freeCount = s.freeCount := by cases p <;> rfl

@[simp] theorem pinWrite_trace (p : OutPin) (v : Bool) (s : State) :
    (pinWrite p v s).trace = .pin p v :: s.trace := by
  cases p <;> rfl
@[simp] theorem pinWrite_csN_csN (v : Bool) (s : State) : (pinWrite .csN v s).csN = .driven v := rfl
@[simp] theorem pinWrite_csN_sclk (v : Bool) (s : State) : (pinWrite .csN v s).sclk = s.sclk := rfl
@[simp] theorem pinWrite_csN_mosi (v : Bool) (s : State) : (pinWrite .csN v s).mosi = s.mosi := rfl
@[simp] theorem pinWrite_sclk_csN (v : Bool) (s : State) : (pinWrite .sclk v s).csN = s.csN := rfl
@[simp] theorem pinWrite_sclk_sclk (v : Bool) (s : State) : (pinWrite .sclk v s).sclk = .driven v := rfl
@[simp] theorem pinWrite_sclk_mosi (v : Bool) (s : State) : (pinWrite .sclk v s).mosi = s.mosi := rfl
@[simp] theorem pinWrite_mosi_csN (v : Bool) (s : State) : (pinWrite .mosi v s).csN = s.csN := rfl
@[simp] theorem pinWrite_mosi_sclk (v : Bool) (s : State) : (pinWrite .mosi v s).sclk = s.sclk := rfl
@[simp] theorem pinWrite_mosi_mosi (v : Bool) (s : State) : (pinWrite .mosi v s).mosi = .driven v := rfl

theorem pinWrite_level (p q : OutPin) (v : Bool) (s : State) :
    (pinWrite p v s).level q = if q = p then .driven v else s.level q := by
  cases p <;> cases q <;> rfl

/-! `pinRead` takes one sample from one line and records it. -/

@[simp] theorem pinRead_csN (p : InPin) (s : State) : (pinRead p s).csN = s.csN := by cases p <;> rfl
@[simp] theorem pinRead_sclk (p : InPin) (s : State) : (pinRead p s).sclk = s.sclk := by cases p <;> rfl
@[simp] theorem pinRead_mosi (p : InPin) (s : State) : (pinRead p s).mosi = s.mosi := by cases p <;> rfl
@[simp] theorem pinRead_configured (p : InPin) (s : State) :
    (pinRead p s).configured = s.configured := by cases p <;> rfl
@[simp] theorem pinRead_txSr (p : InPin) (s : State) : (pinRead p s).txSr = s.txSr := by cases p <;> rfl
@[simp] theorem pinRead_rxSr (p : InPin) (s : State) : (pinRead p s).rxSr = s.rxSr := by cases p <;> rfl
@[simp] theorem pinRead_bitIdx (p : InPin) (s : State) : (pinRead p s).bitIdx = s.bitIdx := by cases p <;> rfl
@[simp] theorem pinRead_eng (p : InPin) (s : State) : (pinRead p s).eng = s.eng := by cases p <;> rfl
@[simp] theorem pinRead_pollCnt (p : InPin) (s : State) : (pinRead p s).pollCnt = s.pollCnt := by cases p <;> rfl
@[simp] theorem pinRead_chan (p : InPin) (s : State) : (pinRead p s).chan = s.chan := by cases p <;> rfl
@[simp] theorem pinRead_ctl (p : InPin) (s : State) : (pinRead p s).ctl = s.ctl := by cases p <;> rfl
@[simp] theorem pinRead_point (p : InPin) (s : State) : (pinRead p s).point = s.point := by cases p <;> rfl
@[simp] theorem pinRead_initPhase (p : InPin) (s : State) :
    (pinRead p s).initPhase = s.initPhase := by cases p <;> rfl
@[simp] theorem pinRead_prefixLeft (p : InPin) (s : State) :
    (pinRead p s).prefixLeft = s.prefixLeft := by cases p <;> rfl
@[simp] theorem pinRead_attempt (p : InPin) (s : State) : (pinRead p s).attempt = s.attempt := by cases p <;> rfl
@[simp] theorem pinRead_outcome (p : InPin) (s : State) : (pinRead p s).outcome = s.outcome := by cases p <;> rfl
@[simp] theorem pinRead_outcomeValid (p : InPin) (s : State) :
    (pinRead p s).outcomeValid = s.outcomeValid := by cases p <;> rfl
@[simp] theorem pinRead_req (p : InPin) (s : State) : (pinRead p s).req = s.req := by cases p <;> rfl
@[simp] theorem pinRead_resp (p : InPin) (s : State) : (pinRead p s).resp = s.resp := by cases p <;> rfl
@[simp] theorem pinRead_respValid (p : InPin) (s : State) :
    (pinRead p s).respValid = s.respValid := by cases p <;> rfl
@[simp] theorem pinRead_cfg (p : InPin) (s : State) : (pinRead p s).cfg = s.cfg := by cases p <;> rfl
@[simp] theorem pinRead_host (p : InPin) (s : State) : (pinRead p s).host = s.host := by cases p <;> rfl
@[simp] theorem pinRead_resetLine (p : InPin) (s : State) :
    (pinRead p s).resetLine = s.resetLine := by cases p <;> rfl
@[simp] theorem pinRead_freeCount (p : InPin) (s : State) :
    (pinRead p s).freeCount = s.freeCount := by cases p <;> rfl

@[simp] theorem pinRead_trace (p : InPin) (s : State) :
    (pinRead p s).trace = .sample p (inputLevel p s) :: s.trace := by
  cases p <;> rfl
@[simp] theorem pinRead_miso_miso (s : State) : (pinRead .miso s).miso = s.miso.next := rfl
@[simp] theorem pinRead_miso_xferDone (s : State) : (pinRead .miso s).xferDone = s.xferDone := rfl
@[simp] theorem pinRead_xferDone_miso (s : State) : (pinRead .xferDone s).miso = s.miso := rfl
@[simp] theorem pinRead_xferDone_xferDone (s : State) : (pinRead .xferDone s).xferDone = s.xferDone.next := rfl

/-! `delay` records the wait. -/

@[simp] theorem delay_csN (k : Wait) (s : State) : (delay k s).csN = s.csN := rfl
@[simp] theorem delay_sclk (k : Wait) (s : State) : (delay k s).sclk = s.sclk := rfl
@[simp] theorem delay_mosi (k : Wait) (s : State) : (delay k s).mosi = s.mosi := rfl
@[simp] theorem delay_configured (k : Wait) (s : State) : (delay k s).configured = s.configured := rfl
@[simp] theorem delay_txSr (k : Wait) (s : State) : (delay k s).txSr = s.txSr := rfl
@[simp] theorem delay_rxSr (k : Wait) (s : State) : (delay k s).rxSr = s.rxSr := rfl
@[simp] theorem delay_bitIdx (k : Wait) (s : State) : (delay k s).bitIdx = s.bitIdx := rfl
@[simp] theorem delay_eng (k : Wait) (s : State) : (delay k s).eng = s.eng := rfl
@[simp] theorem delay_pollCnt (k : Wait) (s : State) : (delay k s).pollCnt = s.pollCnt := rfl
@[simp] theorem delay_chan (k : Wait) (s : State) : (delay k s).chan = s.chan := rfl
@[simp] theorem delay_ctl (k : Wait) (s : State) : (delay k s).ctl = s.ctl := rfl
@[simp] theorem delay_point (k : Wait) (s : State) : (delay k s).point = s.point := rfl
@[simp] theorem delay_initPhase (k : Wait) (s : State) : (delay k s).initPhase = s.initPhase := rfl
@[simp] theorem delay_prefixLeft (k : Wait) (s : State) : (delay k s).prefixLeft = s.prefixLeft := rfl
@[simp] theorem delay_attempt (k : Wait) (s : State) : (delay k s).attempt = s.attempt := rfl
@[simp] theorem delay_outcome (k : Wait) (s : State) : (delay k s).outcome = s.outcome := rfl
@[simp] theorem delay_outcomeValid (k : Wait) (s : State) : (delay k s).outcomeValid = s.outcomeValid := rfl
@[simp] theorem delay_req (k : Wait) (s : State) : (delay k s).req = s.req := rfl
@[simp] theorem delay_resp (k : Wait) (s : State) : (delay k s).resp = s.resp := rfl
@[simp] theorem delay_respValid (k : Wait) (s : State) : (delay k s).respValid = s.respValid := rfl
@[simp] theorem delay_trace (k : Wait) (s : State) : (delay k s).trace = .delay k :: s.trace := rfl
@[simp] theorem delay_cfg (k : Wait) (s : State) : (delay k s).cfg = s.cfg := rfl
@[simp] theorem delay_miso (k : Wait) (s : State) : (delay k s).miso = s.miso := rfl
@[simp] theorem delay_xferDone (k : Wait) (s : State) : (delay k s).xferDone = s.xferDone := rfl
@[simp] theorem delay_host (k : Wait) (s : State) : (delay k s).host = s.host := rfl
@[simp] theorem delay_resetLine (k : Wait) (s : State) : (delay k s).resetLine = s.resetLine := rfl
@[simp] theorem delay_freeCount (k : Wait) (s : State) : (delay k s).freeCount = s.freeCount := rfl

/-! `accept` writes the handshake registers. -/

@[simp] theorem accept_csN (w : Request) (s : State) : (accept w s).csN = s.csN := rfl
@[simp] theorem accept_sclk (w : Request) (s : State) : (accept w s).sclk = s.sclk := rfl
@[simp] theorem accept_mosi (w : Request) (s : State) : (accept w s).mosi = s.mosi := rfl
@[simp] theorem accept_configured (w : Request) (s : State) : (accept w s).configured = s.configured := rfl
@[simp] theorem accept_txSr (w : Request) (s : State) : (accept w s).txSr = s.txSr := rfl
@[simp] theorem accept_rxSr (w : Request) (s : State) : (accept w s).rxSr = s.rxSr := rfl
@[simp] theorem accept_bitIdx (w : Request) (s : State) : (accept w s).bitIdx = s.bitIdx := rfl
@[simp] theorem accept_eng (w : Request) (s : State) : (accept w s).eng = s.eng := rfl
@[simp] theorem accept_pollCnt (w : Request) (s : State) : (accept w s).pollCnt = s.pollCnt := rfl
@[simp] theorem accept_chan (w : Request) (s : State) : (accept w s).chan = s.chan := rfl
@[simp] theorem accept_ctl (w : Request) (s : State) : (accept w s).ctl = .busy (opcodeField w) := rfl
@[simp] theorem accept_point (w : Request) (s : State) : (accept w s).point = .start := rfl
@[simp] theorem accept_initPhase (w : Request) (s : State) : (accept w s).initPhase = s.initPhase := rfl
@[simp] theorem accept_prefixLeft (w : Request) (s : State) : (accept w s).prefixLeft = s.prefixLeft := rfl
@[simp] theorem accept_attempt (w : Request) (s : State) : (accept w s).attempt = s.attempt := rfl
@[simp] theorem accept_outcome (w : Request) (s : State) : (accept w s).outcome = s.outcome := rfl
@[simp] theorem accept_outcomeValid (w : Request) (s : State) : (accept w s).outcomeValid = s.outcomeValid := rfl
@[simp] theorem accept_req (w : Request) (s : State) : (accept w s).req = w := rfl
@[simp] theorem accept_resp (w : Request) (s : State) : (accept w s).resp = s.resp := rfl
@[simp] theorem accept_respValid (w : Request) (s : State) : (accept w s).respValid = false := rfl
@[simp] theorem accept_trace (w : Request) (s : State) : (accept w s).trace = .accept w :: s.trace := rfl
@[simp] theorem accept_cfg (w : Request) (s : State) : (accept w s).cfg = s.cfg := rfl
@[simp] theorem accept_miso (w : Request) (s : State) : (accept w s).miso = s.miso := rfl
@[simp] theorem accept_xferDone (w : Request) (s : State) : (accept w s).xferDone = s.xferDone := rfl
@[simp] theorem accept_host (w : Request) (s : State) : (accept w s).host = s.host := rfl
@[simp] theorem accept_resetLine (w : Request) (s : State) : (accept w s).resetLine = s.resetLine := rfl
@[simp] theorem accept_freeCount (w : Request) (s : State) : (accept w s).freeCount = s.freeCount := rfl

/-! `complete` writes the handshake registers. -/

@[simp] theorem complete_csN (st : Status) (d : Byte) (s : State) : (complete st d s).csN = s.csN := rfl
@[simp] theorem complete_sclk (st : Status) (d : Byte) (s : State) : (complete st d s).sclk = s.sclk := rfl
@[simp] theorem complete_mosi (st : Status) (d : Byte) (s : State) : (complete st d s).mosi = s.mosi := rfl
@[simp] theorem complete_configured (st : Status) (d : Byte) (s : State) :
    (complete st d s).configured = s.configured := rfl
@[simp] theorem complete_txSr (st : Status) (d : Byte) (s : State) : (complete st d s).txSr = s.txSr := rfl
@[simp] theorem complete_rxSr (st : Status) (d : Byte) (s : State) : (complete st d s).rxSr = s.rxSr := rfl
@[simp] theorem complete_bitIdx (st : Status) (d : Byte) (s : State) : (complete st d s).bitIdx = s.bitIdx := rfl
@[simp] theorem complete_eng (st : Status) (d : Byte) (s : State) : (complete st d s).eng = s.eng := rfl
@[simp] theorem complete_pollCnt (st : Status) (d : Byte) (s : State) : (complete st d s).pollCnt = s.pollCnt := rfl
@[simp] theorem complete_chan (st : Status) (d : Byte) (s : State) : (complete st d s).chan = s.chan := rfl
@[simp] theorem complete_ctl (st : Status) (d : Byte) (s : State) : (complete st d s).ctl = .idle := rfl
@[simp] theorem complete_point (st : Status) (d : Byte) (s : State) : (complete st d s).point = .start := rfl
@[simp] theorem complete_initPhase (st : Status) (d : Byte) (s : State) :
    (complete st d s).initPhase = s.initPhase := rfl
@[simp] theorem complete_prefixLeft (st : Status) (d : Byte) (s : State) :
    (complete st d s).prefixLeft = s.prefixLeft := rfl
@[simp] theorem complete_attempt (st : Status) (d : Byte) (s : State) : (complete st d s).attempt = s.attempt := rfl
@[simp] theorem complete_outcome (st : Status) (d : Byte) (s : State) : (complete st d s).outcome = s.outcome := rfl
@[simp] theorem complete_outcomeValid (st : Status) (d : Byte) (s : State) :
    (complete st d s).outcomeValid = s.outcomeValid := rfl
@[simp] theorem complete_req (st : Status) (d : Byte) (s : State) : (complete st d s).req = s.req := rfl
@[simp] theorem complete_resp (st : Status) (d : Byte) (s : State) : (complete st d s).resp = response st d := rfl
@[simp] theorem complete_respValid (st : Status) (d : Byte) (s : State) : (complete st d s).respValid = true := rfl
@[simp] theorem complete_trace (st : Status) (d : Byte) (s : State) :
    (complete st d s).trace = .complete (response st d) :: s.trace := rfl
@[simp] theorem complete_cfg (st : Status) (d : Byte) (s : State) : (complete st d s).cfg = s.cfg := rfl
@[simp] theorem complete_miso (st : Status) (d : Byte) (s : State) : (complete st d s).miso = s.miso := rfl
@[simp] theorem complete_xferDone (st : Status) (d : Byte) (s : State) :
    (complete st d s).xferDone = s.xferDone := rfl
@[simp] theorem complete_host (st : Status) (d : Byte) (s : State) : (complete st d s).host = s.host := rfl
@[simp] theorem complete_resetLine (st : Status) (d : Byte) (s : State) :
    (complete st d s).resetLine = s.resetLine := rfl
@[simp] theorem complete_freeCount (st : Status) (d : Byte) (s : State) :
    (complete st d s).freeCount = s.freeCount := rfl

/-! `conclude` writes the outcome and completes. -/

@[simp] theorem conclude_csN (st : Status) (o : InitOutcome) (s : State) : (conclude st o s).csN = s.csN := rfl
@[simp] theorem conclude_sclk (st : Status) (o : InitOutcome) (s : State) : (conclude st o s).sclk = s.sclk := rfl
@[simp] theorem conclude_mosi (st : Status) (o : InitOutcome) (s : State) : (conclude st o s).mosi = s.mosi := rfl
@[simp] theorem conclude_configured (st : Status) (o : InitOutcome) (s : State) :
    (conclude st o s).configured = s.configured := rfl
@[simp] theorem conclude_txSr (st : Status) (o : InitOutcome) (s : State) : (conclude st o s).txSr = s.txSr := rfl
@[simp] theorem conclude_rxSr (st : Status) (o : InitOutcome) (s : State) : (conclude st o s).rxSr = s.rxSr := rfl
@[simp] theorem conclude_bitIdx (st : Status) (o : InitOutcome) (s : State) :
    (conclude st o s).bitIdx = s.bitIdx := rfl
@[simp] theorem conclude_eng (st : Status) (o : InitOutcome) (s : State) : (conclude st o s).eng = s.eng := rfl
@[simp] theorem conclude_pollCnt (st : Status) (o : InitOutcome) (s : State) :
    (conclude st o s).pollCnt = s.pollCnt := rfl
@[simp] theorem conclude_chan (st : Status) (o : InitOutcome) (s : State) : (conclude st o s).chan = s.chan := rfl
@[simp] theorem conclude_ctl (st : Status) (o : InitOutcome) (s : State) : (conclude st o s).ctl = .idle := rfl
@[simp] theorem conclude_point (st : Status) (o : InitOutcome) (s : State) : (conclude st o s).point = .start := rfl
@[simp] theorem conclude_initPhase (st : Status) (o : InitOutcome) (s : State) :
    (conclude st o s).initPhase = o.phase := rfl
@[simp] theorem conclude_prefixLeft (st : Status) (o : InitOutcome) (s : State) :
    (conclude st o s).prefixLeft = s.prefixLeft := rfl
@[simp] theorem conclude_attempt (st : Status) (o : InitOutcome) (s : State) :
    (conclude st o s).attempt = s.attempt := rfl
@[simp] theorem conclude_outcome (st : Status) (o : InitOutcome) (s : State) :
    (conclude st o s).outcome = o.byte := rfl
@[simp] theorem conclude_outcomeValid (st : Status) (o : InitOutcome) (s : State) :
    (conclude st o s).outcomeValid = true := rfl
@[simp] theorem conclude_req (st : Status) (o : InitOutcome) (s : State) : (conclude st o s).req = s.req := rfl
@[simp] theorem conclude_resp (st : Status) (o : InitOutcome) (s : State) :
    (conclude st o s).resp = response st o.byte := rfl
@[simp] theorem conclude_respValid (st : Status) (o : InitOutcome) (s : State) :
    (conclude st o s).respValid = true := rfl
@[simp] theorem conclude_trace (st : Status) (o : InitOutcome) (s : State) :
    (conclude st o s).trace = .complete (response st o.byte) :: s.trace := rfl
@[simp] theorem conclude_cfg (st : Status) (o : InitOutcome) (s : State) : (conclude st o s).cfg = s.cfg := rfl
@[simp] theorem conclude_miso (st : Status) (o : InitOutcome) (s : State) : (conclude st o s).miso = s.miso := rfl
@[simp] theorem conclude_xferDone (st : Status) (o : InitOutcome) (s : State) :
    (conclude st o s).xferDone = s.xferDone := rfl
@[simp] theorem conclude_host (st : Status) (o : InitOutcome) (s : State) : (conclude st o s).host = s.host := rfl
@[simp] theorem conclude_resetLine (st : Status) (o : InitOutcome) (s : State) :
    (conclude st o s).resetLine = s.resetLine := rfl
@[simp] theorem conclude_freeCount (st : Status) (o : InitOutcome) (s : State) :
    (conclude st o s).freeCount = s.freeCount := rfl

/-! `forgetChannel` frees the channel registers. -/

@[simp] theorem forgetChannel_csN (s : State) : (forgetChannel s).csN = s.csN := rfl
@[simp] theorem forgetChannel_sclk (s : State) : (forgetChannel s).sclk = s.sclk := rfl
@[simp] theorem forgetChannel_mosi (s : State) : (forgetChannel s).mosi = s.mosi := rfl
@[simp] theorem forgetChannel_configured (s : State) : (forgetChannel s).configured = s.configured := rfl
@[simp] theorem forgetChannel_txSr (s : State) : (forgetChannel s).txSr = s.txSr := rfl
@[simp] theorem forgetChannel_rxSr (s : State) : (forgetChannel s).rxSr = s.rxSr := rfl
@[simp] theorem forgetChannel_bitIdx (s : State) : (forgetChannel s).bitIdx = s.bitIdx := rfl
@[simp] theorem forgetChannel_eng (s : State) : (forgetChannel s).eng = s.eng := rfl
@[simp] theorem forgetChannel_pollCnt (s : State) : (forgetChannel s).pollCnt = s.pollCnt := rfl
@[simp] theorem forgetChannel_ctl (s : State) : (forgetChannel s).ctl = s.ctl := rfl
@[simp] theorem forgetChannel_point (s : State) : (forgetChannel s).point = s.point := rfl
@[simp] theorem forgetChannel_initPhase (s : State) : (forgetChannel s).initPhase = s.initPhase := rfl
@[simp] theorem forgetChannel_prefixLeft (s : State) : (forgetChannel s).prefixLeft = s.prefixLeft := rfl
@[simp] theorem forgetChannel_attempt (s : State) : (forgetChannel s).attempt = s.attempt := rfl
@[simp] theorem forgetChannel_outcome (s : State) : (forgetChannel s).outcome = s.outcome := rfl
@[simp] theorem forgetChannel_outcomeValid (s : State) : (forgetChannel s).outcomeValid = s.outcomeValid := rfl
@[simp] theorem forgetChannel_req (s : State) : (forgetChannel s).req = s.req := rfl
@[simp] theorem forgetChannel_resp (s : State) : (forgetChannel s).resp = s.resp := rfl
@[simp] theorem forgetChannel_respValid (s : State) : (forgetChannel s).respValid = s.respValid := rfl
@[simp] theorem forgetChannel_trace (s : State) : (forgetChannel s).trace = s.trace := rfl
@[simp] theorem forgetChannel_cfg (s : State) : (forgetChannel s).cfg = s.cfg := rfl
@[simp] theorem forgetChannel_miso (s : State) : (forgetChannel s).miso = s.miso := rfl
@[simp] theorem forgetChannel_xferDone (s : State) : (forgetChannel s).xferDone = s.xferDone := rfl
@[simp] theorem forgetChannel_host (s : State) : (forgetChannel s).host = s.host := rfl
@[simp] theorem forgetChannel_resetLine (s : State) : (forgetChannel s).resetLine = s.resetLine := rfl
@[simp] theorem forgetChannel_freeCount (s : State) : (forgetChannel s).freeCount = s.freeCount + 5 := rfl

/-! `latch` writes the frame registers. -/

@[simp] theorem latch_csN (k : Command) (s : State) : (latch k s).csN = s.csN := rfl
@[simp] theorem latch_sclk (k : Command) (s : State) : (latch k s).sclk = s.sclk := rfl
@[simp] theorem latch_mosi (k : Command) (s : State) : (latch k s).mosi = s.mosi := rfl
@[simp] theorem latch_configured (k : Command) (s : State) : (latch k s).configured = s.configured := rfl
@[simp] theorem latch_txSr (k : Command) (s : State) : (latch k s).txSr = s.txSr := rfl
@[simp] theorem latch_rxSr (k : Command) (s : State) : (latch k s).rxSr = s.rxSr := rfl
@[simp] theorem latch_bitIdx (k : Command) (s : State) : (latch k s).bitIdx = s.bitIdx := rfl
@[simp] theorem latch_eng (k : Command) (s : State) : (latch k s).eng = s.eng := rfl
@[simp] theorem latch_pollCnt (k : Command) (s : State) : (latch k s).pollCnt = s.pollCnt := rfl
@[simp] theorem latch_chan (k : Command) (s : State) :
    (latch k s).chan = { s.chan with fCmd := k.cmd, fArg := k.arg, fCrc := k.crc, fWin := k.win } := rfl
@[simp] theorem latch_ctl (k : Command) (s : State) : (latch k s).ctl = s.ctl := rfl
@[simp] theorem latch_point (k : Command) (s : State) : (latch k s).point = s.point := rfl
@[simp] theorem latch_initPhase (k : Command) (s : State) : (latch k s).initPhase = s.initPhase := rfl
@[simp] theorem latch_prefixLeft (k : Command) (s : State) : (latch k s).prefixLeft = s.prefixLeft := rfl
@[simp] theorem latch_attempt (k : Command) (s : State) : (latch k s).attempt = s.attempt := rfl
@[simp] theorem latch_outcome (k : Command) (s : State) : (latch k s).outcome = s.outcome := rfl
@[simp] theorem latch_outcomeValid (k : Command) (s : State) : (latch k s).outcomeValid = s.outcomeValid := rfl
@[simp] theorem latch_req (k : Command) (s : State) : (latch k s).req = s.req := rfl
@[simp] theorem latch_resp (k : Command) (s : State) : (latch k s).resp = s.resp := rfl
@[simp] theorem latch_respValid (k : Command) (s : State) : (latch k s).respValid = s.respValid := rfl
@[simp] theorem latch_trace (k : Command) (s : State) : (latch k s).trace = s.trace := rfl
@[simp] theorem latch_cfg (k : Command) (s : State) : (latch k s).cfg = s.cfg := rfl
@[simp] theorem latch_miso (k : Command) (s : State) : (latch k s).miso = s.miso := rfl
@[simp] theorem latch_xferDone (k : Command) (s : State) : (latch k s).xferDone = s.xferDone := rfl
@[simp] theorem latch_host (k : Command) (s : State) : (latch k s).host = s.host := rfl
@[simp] theorem latch_resetLine (k : Command) (s : State) : (latch k s).resetLine = s.resetLine := rfl
@[simp] theorem latch_freeCount (k : Command) (s : State) : (latch k s).freeCount = s.freeCount := rfl

end Sys2Proof.Machine
end

