-- ==== Sys2Proof/Laws/Ops.lean ====
section
/-! SUPPORT. Each shared operation under each of its conditions, said once; callers cite these and do not unfold. -/

namespace Sys2Proof.Machine

theorem emitThen_on {d : Diag} {g : Seg} {k : State → State} {s : State} (h : s.cfg.diagEnable = true) :
    emitThen d g k s = (s.record (.diag d)).goto g := by
  simp [emitThen, emit, h]

theorem emitThen_off {d : Diag} {g : Seg} {k : State → State} {s : State} (h : s.cfg.diagEnable = false) :
    emitThen d g k s = k s := by
  simp [emitThen, h]

theorem admitted_configured {f : State → State} {s : State} (h : s.configured = true) : admitted f s = f s := by
  simp [admitted, h]

theorem admitted_refused {f : State → State} {s : State} (h : s.configured = false) :
    admitted f s = complete .notConfigured 0 s := by
  simp [admitted, h, raise]

theorem pollDone_high {site : Site} {s : State} (h : inputLevel .xferDone s = true) :
    pollDone site s = (pinRead .xferDone s).goto (.xfer .sample site) := by
  simp [pollDone, h]

theorem pollDone_low {site : Site} {s : State} (h : inputLevel .xferDone s = false) :
    pollDone site s = (pinRead .xferDone s).goto (.xfer .repoll site) := by
  simp [pollDone, h]

theorem pollAgain_unbounded {site : Site} {s : State} (h : s.cfg.pollLimit = none) :
    pollAgain site s = pollDone site s := by
  simp [pollAgain, h]

theorem pollAgain_below {site : Site} {s : State} {n : Nat} (h : s.cfg.pollLimit = some n) (hn : s.pollCnt + 1 ≠ n) :
    pollAgain site s = pollDone site { s with pollCnt := s.pollCnt + 1 } := by
  simp [pollAgain, h, hn]

theorem pollAgain_limit {site : Site} {s : State} {n : Nat} (h : s.cfg.pollLimit = some n) (hn : s.pollCnt + 1 = n) :
    pollAgain site s = (pinWrite .sclk false { s with pollCnt := s.pollCnt + 1 }).goto (.timedOut site) := by
  simp [pollAgain, h, hn]

theorem bitDone_more {site : Site} {s : State} (h : s.bitIdx ≠ 0) : bitDone site s = driveBit (s.bitIdx - 1) site s := by
  simp [bitDone, h]

theorem bitDone_last {site : Site} {s : State} (h : s.bitIdx = 0) :
    bitDone site s = exchangeReturned site { s with eng := .idle } := by
  simp [bitDone, h]

theorem frameByteDone_more {c : Caller} {s : State} (h : s.chan.frameIdx ≠ 5) :
    frameByteDone c s = sendFrameByte (s.chan.frameIdx + 1) c s := by
  simp [frameByteDone, h]

theorem frameByteDone_last {c : Caller} {s : State} (h : s.chan.frameIdx = 5) :
    frameByteDone c s = beginWindow c s := by
  simp [frameByteDone, h]

theorem windowLoop_more {c : Caller} {s : State} (h : s.chan.winLeft ≠ 0) :
    windowLoop c s = beginExchange filler (.window c) s := by
  simp only [windowLoop, if_neg h]

theorem windowLoop_end {c : Caller} {s : State} (h : s.chan.winLeft = 0) :
    windowLoop c s = (releaseCS s).goto (.released c) := by
  simp only [windowLoop, if_pos h]

theorem prefixLoop_more {s : State} (h : s.prefixLeft ≠ 0) :
    prefixLoop s = beginExchange filler .prefixByte s := by
  simp only [prefixLoop, if_neg h]

theorem prefixLoop_end {s : State} (h : s.prefixLeft = 0) : prefixLoop s = idleAttempt { s with attempt := 0 } := by
  simp only [prefixLoop, if_pos h]

theorem idleResult_good {r : Byte} {s : State} (h : r = 0x01#8) :
    idleResult r s = opcondAttempt { s with attempt := 0 } := by
  simp only [idleResult, if_pos h]

theorem idleResult_bad {r : Byte} {s : State} (h : r ≠ 0x01#8) :
    idleResult r s = (delay .backoff { s with initPhase := .idleBackoff }).goto .idleBackedOff := by
  simp only [idleResult, if_neg h]

theorem opcondResult_good {r : Byte} {s : State} (h : r = 0x00#8) : opcondResult r s = sendBlocklen s := by
  simp only [opcondResult, if_pos h]

theorem opcondResult_bad {r : Byte} {s : State} (h : r ≠ 0x00#8) :
    opcondResult r s = (delay .backoff { s with initPhase := .opcondBackoff }).goto .opcondBackedOff := by
  simp only [opcondResult, if_neg h]

theorem idleRetry_limit {s : State} (h : s.attempt = s.cfg.idleRetryLimit) :
    idleRetry s = conclude .ok .idleExhausted s := by
  simp only [idleRetry, if_pos h]

theorem idleRetry_again {s : State} (h : s.attempt ≠ s.cfg.idleRetryLimit) : idleRetry s = idleAttempt s := by
  simp only [idleRetry, if_neg h]

theorem opcondRetry_limit {s : State} (h : s.attempt = s.cfg.opcondRetryLimit) :
    opcondRetry s = conclude .ok .opcondExhausted s := by
  simp only [opcondRetry, if_pos h]

theorem opcondRetry_again {s : State} (h : s.attempt ≠ s.cfg.opcondRetryLimit) : opcondRetry s = opcondAttempt s := by
  simp only [opcondRetry, if_neg h]

theorem judgeBlocklen_eq (r : Byte) (s : State) :
    judgeBlocklen r s = conclude .ok (if s.cfg.blocklenCheck && r ≠ 0x00#8 then .blocklenRejected else .ready) s := by
  unfold judgeBlocklen
  split <;> rfl

/-- A line with a steady level does not consult the free value. -/
theorem Line.level_given {l : Line} (h : l.steady ≠ none) (b : Bool) : l.level b = l.level false := by
  unfold Line.level
  cases hs : l.script with
  | nil => cases hd : l.steady with
    | none => exact absurd hd h
    | some v => rfl
  | cons b bs => rfl

@[simp] theorem Line.next_steady (l : Line) : l.next.steady = l.steady := rfl

end Sys2Proof.Machine
end

