-- ==== Sys2Proof/Laws/Lines.lean ====
section
/-! SUPPORT. The environment's lines and the bits of a shift register: what eight samples make of a byte. -/

namespace Sys2Proof.Machine

theorem Line.next_eq_skip (l : Line) : l.next = l.skip 1 := by
  simp [Line.skip, Line.next]

theorem Line.skip_skip (l : Line) (a b : Nat) : (l.skip a).skip b = l.skip (a + b) := by
  simp [Line.skip, List.drop_drop]

theorem Line.skip_zero (l : Line) : l.skip 0 = l := by
  simp [Line.skip]

@[simp] theorem Line.skip_steady (l : Line) (n : Nat) : (l.skip n).steady = l.steady := rfl

theorem Line.bytes_add (l : Line) (m n : Nat) : l.bytes (m + n) = l.bytes m ++ (l.skip (8 * m)).bytes n := by
  induction m generalizing l with
  | zero => simp [Line.bytes, Line.skip_zero]
  | succ m ih =>
    rw [Nat.succ_add, Line.bytes, ih, Line.bytes, Line.skip_skip, List.cons_append]
    rw [show 8 + 8 * m = 8 * (m + 1) by omega]

/-- Setting a bit of a shift register leaves the other bits. -/
theorem getLsbD_putBit (v : Byte) (i : Fin 8) (b : Bool) (j : Nat) :
    (putBit v i b).getLsbD j = if j = i.val then b else v.getLsbD j := by
  unfold putBit
  have hi := i.isLt
  by_cases hj : j = i.val
  · subst hj
    cases b <;> simp [hi]
  · cases b <;> simp only [if_true, if_false, Bool.false_eq_true, BitVec.getLsbD_or, BitVec.getLsbD_and,
      BitVec.getLsbD_not, BitVec.getLsbD_shiftLeft]
    · by_cases h8 : j < 8
      · simp [h8, hj]
        intro _
        omega
      · rw [BitVec.getLsbD_of_ge _ _ (by omega)]
        simp [hj]
    · by_cases h8 : j < 8
      · simp [h8, hj]
        intro h
        omega
      · rw [BitVec.getLsbD_of_ge _ _ (by omega)]
        simp [hj]
        intro h
        omega

/-- The bits of a byte read most significant first. -/
theorem getLsbD_byteOfBits (b7 b6 b5 b4 b3 b2 b1 b0 : Bool) (k : Fin 8) :
    (byteOfBits [b7, b6, b5, b4, b3, b2, b1, b0]).getLsbD k.val = [b0, b1, b2, b3, b4, b5, b6, b7][k.val]! := by
  revert b7 b6 b5 b4 b3 b2 b1 b0 k
  decide

/-- Eight samples put into a shift register from bit 7 down leave their byte, whatever it held. -/
theorem putBit_eight (r : Byte) (b7 b6 b5 b4 b3 b2 b1 b0 : Bool) :
    putBit (putBit (putBit (putBit (putBit (putBit (putBit (putBit r 7 b7) 6 b6) 5 b5) 4 b4) 3 b3) 2 b2) 1 b1) 0 b0 =
      byteOfBits [b7, b6, b5, b4, b3, b2, b1, b0] := by
  apply BitVec.eq_of_getLsbD_eq
  intro j hj
  have e := getLsbD_byteOfBits b7 b6 b5 b4 b3 b2 b1 b0 ⟨j, hj⟩
  rw [e]
  simp only [getLsbD_putBit]
  have places : j = 7 ∨ j = 6 ∨ j = 5 ∨ j = 4 ∨ j = 3 ∨ j = 2 ∨ j = 1 ∨ j = 0 := by omega
  rcases places with h | h | h | h | h | h | h | h <;> subst h <;> rfl

end Sys2Proof.Machine
end

