-- ==== Sys2Proof/Laws/Step.lean ====
section
/-! SUPPORT. What a step and an instruction can do, said once: a proof about the machine cites these and never unfolds `step`
or `exec`. -/

namespace Sys2Proof.Machine

/-- What an instruction does right after acceptance, admission included. -/
def firstStep (i : Instr) (s : State) : State :=
  match i with
  | .initBus => (pinWrite .csN true s).goto .initSclk
  | .select => admitted (fun s => (acquireCS s).goto .acknowledge) s
  | .deselect => admitted (fun s => (releaseCS s).goto .acknowledge) s
  | .xchg out => admitted (beginExchange out .raw) s
  | .sendCmd cmd arg crc win => admitted (enterCommand .host ⟨cmd, arg, crc, win⟩) s
  | .cardInit => admitted beginCardInit s
  | .fill => admitted (beginExchange filler .raw) s
  | .goIdleState => admitted (enterCommand .host ⟨0x40#8, 0#32, 0x95#8, 8#8⟩) s
  | .sendOpCond => admitted (enterCommand .host ⟨0x41#8, 0#32, 0xFF#8, 8#8⟩) s
  | .setBlocklen n => admitted (enterCommand .host ⟨0x50#8, n, 0xFF#8, 8#8⟩) s

theorem exec_at_start (i : Instr) {s : State} (h : s.point = .start) : exec i s = .next (firstStep i s) := by
  cases i <;> simp only [exec, execInitBus, execSelect, execDeselect, execXchg, execSendCmd, execCardInit, execFill,
    execGoIdleState, execSendOpCond, execSetBlocklen, sendCommand, request, h, firstStep]

theorem exec_within (i : Instr) {s : State} {g : Seg} (h : s.point = .within g) : exec i s = .next (resume g s) := by
  cases i <;> simp only [exec, execInitBus, execSelect, execDeselect, execXchg, execSendCmd, execCardInit, execFill,
    execGoIdleState, execSendOpCond, execSetBlocklen, sendCommand, request, h]

/-- An instruction runs as its expansion does (30_encoding.md R97, 41_command_channel.md R154). -/
theorem exec_expand (i : Instr) (s : State) : exec i.expand s = exec i s := by
  cases i <;> rfl

theorem step_of_reset {s : State} (h : s.resetLine = true) : step s = .next (resetEvent s) := by
  simp [step, h]

theorem step_of_idle {s : State} (hr : s.resetLine = false) (h : s.ctl = .idle) : step s = .next (takeRequest s) := by
  simp [step, hr, h]

theorem step_of_busy {s : State} {op : Byte} {i : Instr} (hr : s.resetLine = false) (h : s.ctl = .busy op)
    (hd : decode s.req = .ok i) : step s = exec i s := by
  simp [step, hr, h, runRequest, hd]

theorem step_of_illegal {s : State} {op : Byte} {e : Reject} (hr : s.resetLine = false) (h : s.ctl = .busy op)
    (hd : decode s.req = .error e) : step s = .next (raise .illegal s) := by
  simp [step, hr, h, runRequest, hd]

theorem Ctl.cases (c : Ctl) : c = .idle ∨ ∃ op, c = .busy op := by
  cases c with
  | idle => exact .inl rfl
  | busy op => exact .inr ⟨op, rfl⟩

theorem List.eq_nil_or_cons {α : Type} (l : List α) : l = [] ∨ ∃ a as, l = a :: as := by
  cases l with
  | nil => exact .inl rfl
  | cons a as => exact .inr ⟨a, as, rfl⟩

/-- Everything a step can do. -/
theorem step_cases {s t : State} (h : step s = .next t) :
    (s.resetLine = true ∧ t = resetEvent s) ∨
    (s.resetLine = false ∧ s.ctl = .idle ∧ s.host = [] ∧ t = s) ∨
    (s.resetLine = false ∧ s.ctl = .idle ∧ ∃ w ws, s.host = w :: ws ∧ t = accept w { s with host := ws }) ∨
    (s.resetLine = false ∧ ∃ op, s.ctl = .busy op ∧
      ((∃ e, decode s.req = .error e ∧ t = raise .illegal s) ∨
       (∃ i, decode s.req = .ok i ∧ s.point = .start ∧ t = firstStep i s) ∨
       (∃ i g, decode s.req = .ok i ∧ s.point = .within g ∧ t = resume g s))) := by
  by_cases hr : s.resetLine = true
  · rw [step_of_reset hr] at h
    exact .inl ⟨hr, by simpa using h.symm⟩
  · have hr : s.resetLine = false := by simpa using hr
    refine .inr ?_
    rcases Ctl.cases s.ctl with hc | ⟨op, hc⟩
    · rw [step_of_idle hr hc, Host.Outcome.next.injEq] at h
      rcases List.eq_nil_or_cons s.host with hh | ⟨w, ws, hh⟩ <;> simp only [takeRequest, hh] at h
      · exact .inl ⟨hr, hc, hh, h.symm⟩
      · exact .inr (.inl ⟨hr, hc, w, ws, hh, h.symm⟩)
    · refine .inr (.inr ⟨hr, op, hc, ?_⟩)
      cases hd : decode s.req with
      | error e =>
        rw [step_of_illegal hr hc hd, Host.Outcome.next.injEq] at h
        exact .inl ⟨e, rfl, h.symm⟩
      | ok i =>
        rw [step_of_busy hr hc hd] at h
        cases hp : s.point with
        | start =>
          rw [exec_at_start i hp, Host.Outcome.next.injEq] at h
          exact .inr (.inl ⟨i, rfl, rfl, h.symm⟩)
        | within g =>
          rw [exec_within i hp, Host.Outcome.next.injEq] at h
          exact .inr (.inr ⟨i, g, rfl, rfl, h.symm⟩)

end Sys2Proof.Machine
end

