-- ==== Sys2Proof/Laws/Run.lean ====
section
/-! SUPPORT. Runs put together: many steps of one instruction, and the machine's run of a request. -/

namespace Sys2Proof.Machine

theorem execTimes_add (i : Instr) {m n : Nat} {s t : State} (h : execTimes i m s = .next t) :
    execTimes i (m + n) s = execTimes i n t := by
  induction m generalizing s with
  | zero =>
    cases h
    rw [Nat.zero_add]
  | succ m ih =>
    rw [Nat.add_right_comm]
    simp only [execTimes] at h ⊢
    split at h
    · exact ih h
    · cases h
    · cases h

theorem execTimes_one {i : Instr} {s t : State} (h : exec i s = .next t) : execTimes i 1 s = .next t := by
  simp only [execTimes, h]

/-- An instruction at a place of its sequence, one step on. -/
theorem execTimes_within {i : Instr} {n : Nat} {s : State} {g : Seg} (h : s.point = .within g) :
    execTimes i (n + 1) s = execTimes i n (resume g s) := by
  simp only [execTimes, exec_within i h]

/-- An instruction right after acceptance, one step on. -/
theorem execTimes_start {i : Instr} {n : Nat} {s : State} (h : s.point = .start) :
    execTimes i (n + 1) s = execTimes i n (firstStep i s) := by
  simp only [execTimes, exec_at_start i h]

theorem run_add {m n : Nat} {s t : State} (h : run m s = .next t) : run (m + n) s = run n t := by
  induction m generalizing s with
  | zero =>
    cases h
    rw [Nat.zero_add]
  | succ m ih =>
    rw [Nat.add_right_comm]
    simp only [run] at h ⊢
    split at h
    · exact ih h
    · cases h
    · cases h

theorem run_succ {n : Nat} {s t : State} (h : step s = .next t) : run (n + 1) s = run n t := by
  simp only [run, h]

/-- An instruction takes `s` to `t` in some number of steps. -/
def Reaches (i : Instr) (s t : State) : Prop := ∃ n, execTimes i n s = .next t

theorem Reaches.refl (i : Instr) (s : State) : Reaches i s s := ⟨0, rfl⟩

theorem Reaches.trans {i : Instr} {s t u : State} (h : Reaches i s t) (k : Reaches i t u) : Reaches i s u := by
  obtain ⟨m, hm⟩ := h
  obtain ⟨n, hn⟩ := k
  exact ⟨m + n, (execTimes_add i hm).trans hn⟩

theorem Reaches.within {i : Instr} {s t : State} {g : Seg} (h : s.point = .within g) (k : Reaches i (resume g s) t) :
    Reaches i s t := by
  obtain ⟨n, hn⟩ := k
  exact ⟨n + 1, (execTimes_within h).trans hn⟩

theorem Reaches.start {i : Instr} {s t : State} (h : s.point = .start) (k : Reaches i (firstStep i s) t) :
    Reaches i s t := by
  obtain ⟨n, hn⟩ := k
  exact ⟨n + 1, (execTimes_start h).trans hn⟩

end Sys2Proof.Machine
end

