-- ==== Sys2Proof/Laws/Exchange.lean ====
section
/-! SUPPORT. An exchange said once: what `Exchange(out)` leaves when every completion poll reads 1 at once and MISO's samples
are given. -/

namespace Sys2Proof.Machine

/-- A whole bit `b` of an exchange: driven, clocked, sampled. -/
def afterBit (b : Fin 8) (site : Site) (s : State) : State :=
  { s with
    bitIdx := b, mosi := .driven (bitOf s.txSr b), sclk := .driven false, eng := .poll,
    pollCnt := if s.cfg.pollLimit.isSome then 0 else s.pollCnt, rxSr := putBit s.rxSr b (s.miso.level false),
    miso := s.miso.next, trace := (bitEvents (bitOf s.txSr b) (s.miso.level false)).reverse ++ s.trace,
    point := .within (.fallen site) }

/-- A whole exchange of the byte `out`, up to its last falling edge. -/
def afterExchange (out : Byte) (site : Site) (s : State) : State :=
  { s with
    sclk := .driven false, mosi := .driven (out.getLsbD 0), txSr := out, rxSr := s.miso.byte, bitIdx := 0,
    eng := .poll, pollCnt := if s.cfg.pollLimit.isSome then 0 else s.pollCnt, miso := s.miso.skip 8,
    point := .within (.fallen site), trace := (exchangeEvents out s.miso.byte).reverse ++ s.trace }

theorem bit_run (i : Instr) (b : Fin 8) (site : Site) (s : State) (n : Nat) (hd : DoneAtOnce s) (hm : MisoGiven s) :
    execTimes i (n + 5) (driveBit b site s) = execTimes i n (afterBit b site s) := by
  unfold DoneAtOnce at hd
  rw [execTimes_within (g := .xfer .rise site) rfl, execTimes_within (g := .xfer .settle site) rfl,
    execTimes_within (g := .xfer .poll site) rfl,
    execTimes_within (g := .xfer .sample site)
      (by simp [resume, engineStep, beginWait, pollDone, inputLevel, State.line, hd, Line.level, driveBit, pinWrite,
        State.setPin, State.goto, State.record, delay]),
    execTimes_within (g := .xfer .fall site) rfl]
  simp [afterBit, bitEvents, resume, engineStep, beginWait, pollDone, sampleMiso, driveBit, inputLevel, State.line, hd,
    Line.level_given hm, pinWrite, pinRead, State.setPin, State.setLine, State.goto, State.record, delay, Line.next]
  simp [Line.level]

theorem next_bit_run (i : Instr) (b c : Fin 8) (site : Site) (s : State) (n : Nat) (hb : b ≠ 0) (hc : b - 1 = c) :
    execTimes i (n + 1) (afterBit b site s) = execTimes i n (driveBit c site (afterBit b site s)) := by
  rw [execTimes_within (g := .fallen site) rfl]
  simp only [resume]
  rw [bitDone_more (by exact hb), show (afterBit b site s).bitIdx - 1 = c from hc]

theorem exchange_run (i : Instr) (out : Byte) (site : Site) (s : State) (hd : DoneAtOnce s) (hm : MisoGiven s) (n : Nat) :
    execTimes i (n + 47) (beginExchange out site s) = execTimes i n (afterExchange out site s) := by
  unfold beginExchange
  rw [show n + 47 = (((((((((((((((n+5)+1)+5)+1)+5)+1)+5)+1)+5)+1)+5)+1)+5)+1)+5) from rfl,
    bit_run i 7 site _ _ (by exact hd) (by exact hm), next_bit_run i 7 6 _ _ _ (by decide) (by decide),
    bit_run i 6 site _ _ (by exact hd) (by exact hm), next_bit_run i 6 5 _ _ _ (by decide) (by decide),
    bit_run i 5 site _ _ (by exact hd) (by exact hm), next_bit_run i 5 4 _ _ _ (by decide) (by decide),
    bit_run i 4 site _ _ (by exact hd) (by exact hm), next_bit_run i 4 3 _ _ _ (by decide) (by decide),
    bit_run i 3 site _ _ (by exact hd) (by exact hm), next_bit_run i 3 2 _ _ _ (by decide) (by decide),
    bit_run i 2 site _ _ (by exact hd) (by exact hm), next_bit_run i 2 1 _ _ _ (by decide) (by decide),
    bit_run i 1 site _ _ (by exact hd) (by exact hm), next_bit_run i 1 0 _ _ _ (by decide) (by decide),
    bit_run i 0 site _ _ (by exact hd) (by exact hm)]
  congr 1
  have hbyte : s.miso.byte = byteOfBits [s.miso.level false, s.miso.next.level false, s.miso.next.next.level false,
    s.miso.next.next.next.level false, s.miso.next.next.next.next.level false,
    s.miso.next.next.next.next.next.level false, s.miso.next.next.next.next.next.next.level false,
    s.miso.next.next.next.next.next.next.next.level false] := rfl
  have hskip : s.miso.next.next.next.next.next.next.next.next = s.miso.skip 8 := by
    simp only [Line.next_eq_skip, Line.skip_skip]
  generalize hb7 : s.miso.level false = b7 at hbyte
  generalize hb6 : s.miso.next.level false = b6 at hbyte
  generalize hb5 : s.miso.next.next.level false = b5 at hbyte
  generalize hb4 : s.miso.next.next.next.level false = b4 at hbyte
  generalize hb3 : s.miso.next.next.next.next.level false = b3 at hbyte
  generalize hb2 : s.miso.next.next.next.next.next.level false = b2 at hbyte
  generalize hb1 : s.miso.next.next.next.next.next.next.level false = b1 at hbyte
  generalize hb0 : s.miso.next.next.next.next.next.next.next.level false = b0 at hbyte
  have hev : (exchangeEvents out s.miso.byte).reverse = (bitEvents (bitOf out 0) b0).reverse ++
      ((bitEvents (bitOf out 1) b1).reverse ++ ((bitEvents (bitOf out 2) b2).reverse ++
      ((bitEvents (bitOf out 3) b3).reverse ++ ((bitEvents (bitOf out 4) b4).reverse ++
      ((bitEvents (bitOf out 5) b5).reverse ++ ((bitEvents (bitOf out 6) b6).reverse ++
      (bitEvents (bitOf out 7) b7).reverse)))))) := by
    have e := getLsbD_byteOfBits b7 b6 b5 b4 b3 b2 b1 b0
    have e7 := e 7
    have e6 := e 6
    have e5 := e 5
    have e4 := e 4
    have e3 := e 3
    have e2 := e 2
    have e1 := e 1
    have e0 := e 0
    simp only [Fin.isValue, Fin.val_zero, Fin.val_one] at e7 e6 e5 e4 e3 e2 e1 e0
    rw [hbyte]
    simp only [exchangeEvents, List.flatMap_cons, List.flatMap_nil, List.reverse_append, List.append_assoc]
    rw [show (byteOfBits [b7, b6, b5, b4, b3, b2, b1, b0]).getLsbD 7 = b7 from e7,
      show (byteOfBits [b7, b6, b5, b4, b3, b2, b1, b0]).getLsbD 6 = b6 from e6,
      show (byteOfBits [b7, b6, b5, b4, b3, b2, b1, b0]).getLsbD 5 = b5 from e5,
      show (byteOfBits [b7, b6, b5, b4, b3, b2, b1, b0]).getLsbD 4 = b4 from e4,
      show (byteOfBits [b7, b6, b5, b4, b3, b2, b1, b0]).getLsbD 3 = b3 from e3,
      show (byteOfBits [b7, b6, b5, b4, b3, b2, b1, b0]).getLsbD 2 = b2 from e2,
      show (byteOfBits [b7, b6, b5, b4, b3, b2, b1, b0]).getLsbD 1 = b1 from e1,
      show (byteOfBits [b7, b6, b5, b4, b3, b2, b1, b0]).getLsbD 0 = b0 from e0]
    simp [bitOf]
  have hp : ∀ (b : Bool) (k : Nat), (if b then 0 else (if b then 0 else k)) = if b then 0 else k := by
    intro b k
    cases b <;> rfl
  unfold afterExchange
  rw [hev, ← hskip, hbyte, ← putBit_eight s.rxSr]
  simp only [afterBit, hp, List.append_assoc, hb7, hb6, hb5, hb4, hb3, hb2, hb1, hb0]
  simp [bitOf]

end Sys2Proof.Machine
end

