-- ==== Sys2Proof/Laws/Command.lean ====
section
/-! SUPPORT. `SendCommand` said once: what a whole call leaves when every completion poll reads 1 at once and MISO's samples
are given, whoever called it. -/

namespace Sys2Proof.Machine

/-- What no part of a command or an exchange touches, apart from `SCLK`'s end and the engine. -/
structure Kept (s u : State) : Prop where
  configured : u.configured = s.configured
  ctl : u.ctl = s.ctl
  initPhase : u.initPhase = s.initPhase
  prefixLeft : u.prefixLeft = s.prefixLeft
  attempt : u.attempt = s.attempt
  outcome : u.outcome = s.outcome
  outcomeValid : u.outcomeValid = s.outcomeValid
  req : u.req = s.req
  resp : u.resp = s.resp
  respValid : u.respValid = s.respValid
  cfg : u.cfg = s.cfg
  xferDone : u.xferDone = s.xferDone
  host : u.host = s.host
  resetLine : u.resetLine = s.resetLine

theorem Kept.refl (s : State) : Kept s s := by
  constructor <;> rfl

theorem Kept.trans {s t u : State} (h : Kept s t) (k : Kept t u) : Kept s u :=
  ⟨k.1.trans h.1, k.2.trans h.2, k.3.trans h.3, k.4.trans h.4, k.5.trans h.5, k.6.trans h.6, k.7.trans h.7,
    k.8.trans h.8, k.9.trans h.9, k.10.trans h.10, k.11.trans h.11, k.12.trans h.12, k.13.trans h.13, k.14.trans h.14⟩

/-- The state an exchange returns to its caller in. -/
def exchanged (out : Byte) (site : Site) (s : State) : State := { afterExchange out site s with eng := .idle }

/-- An exchange and then its caller. -/
theorem Reaches.exchange {i : Instr} {out : Byte} {site : Site} {s t : State} (hd : DoneAtOnce s) (hm : MisoGiven s)
    (h : Reaches i (exchangeReturned site (exchanged out site s)) t) : Reaches i (beginExchange out site s) t := by
  obtain ⟨n, hn⟩ := h
  refine ⟨(n + 1) + 47, ?_⟩
  rw [exchange_run i out site s hd hm, execTimes_within (g := .fallen site) rfl]
  simp only [resume]
  rw [bitDone_last rfl]
  exact hn

/-- The state after the exchange of frame byte `k`. -/
def framed (k : Fin 6) (c : Caller) (s : State) : State :=
  exchanged (s.chan.frameByte k) (.frame c) { s with chan := { s.chan with frameIdx := k } }

theorem framed_doneAtOnce {k : Fin 6} {c : Caller} {s : State} (h : DoneAtOnce s) : DoneAtOnce (framed k c s) := h

theorem framed_misoGiven {k : Fin 6} {c : Caller} {s : State} (h : MisoGiven s) : MisoGiven (framed k c s) := h

/-- One frame byte but the last. -/
theorem Reaches.frameByte {i : Instr} {k l : Fin 6} {c : Caller} {s t : State} (hd : DoneAtOnce s) (hm : MisoGiven s)
    (hk : k ≠ 5) (hl : k + 1 = l) (h : Reaches i (sendFrameByte l c (framed k c s)) t) :
    Reaches i (sendFrameByte k c s) t := by
  refine Reaches.exchange (by exact hd) (by exact hm) ?_
  simp only [exchangeReturned]
  rw [frameByteDone_more (by exact hk), show (exchanged (s.chan.frameByte k) (.frame c)
      { s with chan := { s.chan with frameIdx := k } }).chan.frameIdx + 1 = l from hl]
  exact h

/-- The last frame byte. -/
theorem Reaches.lastFrameByte {i : Instr} {c : Caller} {s t : State} (hd : DoneAtOnce s) (hm : MisoGiven s)
    (h : Reaches i (beginWindow c (framed 5 c s)) t) : Reaches i (sendFrameByte 5 c s) t := by
  refine Reaches.exchange (by exact hd) (by exact hm) ?_
  simp only [exchangeReturned]
  rw [frameByteDone_last rfl]
  exact h

/-- The whole frame (41_command_channel.md R143 step 3). -/
theorem frame_run (i : Instr) (c : Caller) (s : State) (hd : DoneAtOnce s) (hm : MisoGiven s) :
    ∃ u, Kept s u ∧ u.csN = s.csN ∧ u.sclk = .driven false ∧ u.eng = .idle ∧ u.freeCount = s.freeCount ∧
      u.chan = { s.chan with frameIdx := 5 } ∧ u.miso = s.miso.skip 48 ∧
      u.trace = (List.zipWith exchangeEvents (Command.frame s.chan.command) (s.miso.bytes 6)).flatten.reverse ++ s.trace ∧
      ∀ t, Reaches i (beginWindow c u) t → Reaches i (sendFrameByte 0 c s) t := by
  refine ⟨framed 5 c (framed 4 c (framed 3 c (framed 2 c (framed 1 c (framed 0 c s))))), by constructor <;> rfl, rfl, rfl,
    rfl, rfl, rfl, ?_, ?_, fun t h => ?_⟩
  · simp only [framed, exchanged, afterExchange, Line.skip_skip]
  · simp [framed, exchanged, afterExchange, Line.bytes, Command.frame, Channel.command, Channel.frameByte, byteOf]
  · have hd0 := framed_doneAtOnce (k := 0) (c := c) hd
    have hm0 := framed_misoGiven (k := 0) (c := c) hm
    have hd1 := framed_doneAtOnce (k := 1) (c := c) hd0
    have hm1 := framed_misoGiven (k := 1) (c := c) hm0
    have hd2 := framed_doneAtOnce (k := 2) (c := c) hd1
    have hm2 := framed_misoGiven (k := 2) (c := c) hm1
    have hd3 := framed_doneAtOnce (k := 3) (c := c) hd2
    have hm3 := framed_misoGiven (k := 3) (c := c) hm2
    have hd4 := framed_doneAtOnce (k := 4) (c := c) hd3
    have hm4 := framed_misoGiven (k := 4) (c := c) hm3
    have h5 := Reaches.lastFrameByte hd4 hm4 h
    have h4 := Reaches.frameByte (k := 4) (l := 5) hd3 hm3 (by decide) (by decide) h5
    have h3 := Reaches.frameByte (k := 3) (l := 4) hd2 hm2 (by decide) (by decide) h4
    have h2 := Reaches.frameByte (k := 2) (l := 3) hd1 hm1 (by decide) (by decide) h3
    have h1 := Reaches.frameByte (k := 1) (l := 2) hd0 hm0 (by decide) (by decide) h2
    exact Reaches.frameByte (k := 0) (l := 1) hd hm (by decide) (by decide) h1

/-- The rest of a window of `n` bytes (R143 step 4), with its diagnostics. -/
theorem window_run (i : Instr) (c : Caller) (n : Nat) :
    ∀ s : State, DoneAtOnce s → MisoGiven s → s.chan.winLeft.toNat = n → s.sclk = .driven false → s.eng = .idle →
    ∃ u, Kept s u ∧ u.csN = s.csN ∧ u.sclk = .driven false ∧ u.eng = .idle ∧ u.freeCount = s.freeCount ∧
      u.chan.winLeft = 0 ∧ u.chan.scanLast = (s.miso.bytes n).foldl scanStep s.chan.scanLast ∧
      u.miso = s.miso.skip (8 * n) ∧
      u.trace = ((s.miso.bytes n).flatMap
        (fun b => exchangeEvents filler b ++ diagEvent s.cfg.diagEnable (.resp b))).reverse ++ s.trace ∧
      ∀ t, Reaches i ((releaseCS u).goto (.released c)) t → Reaches i (windowLoop c s) t := by
  induction n with
  | zero =>
    intro s hd hm hn hs he
    have hz : s.chan.winLeft = 0 := BitVec.eq_of_toNat_eq hn
    refine ⟨s, Kept.refl s, rfl, hs, he, rfl, hz, rfl, ?_, ?_, fun t h => ?_⟩
    · simp [Line.skip_zero]
    · simp [Line.bytes]
    · rw [windowLoop_end hz]
      exact h
  | succ n ih =>
    intro s hd hm hn hs he
    have hz : s.chan.winLeft ≠ 0 := by
      intro h
      rw [h] at hn
      simp at hn
    have hn' : (s.chan.winLeft - 1).toNat = n := by
      have := s.chan.winLeft.isLt
      rw [BitVec.toNat_sub]
      simp
      omega
    obtain ⟨v, hv, hvm, hvt, hvd, hvs, hve, hvc, hvf, hvw⟩ : ∃ v : State, Kept s v ∧ v.miso = s.miso.skip 8 ∧
        v.trace = diagEvent s.cfg.diagEnable (.resp s.miso.byte) ++ (exchangeEvents filler s.miso.byte).reverse ++ s.trace ∧
        (∀ t, Reaches i (scanByte c v) t → Reaches i (windowLoop c s) t) ∧ v.sclk = .driven false ∧ v.eng = .idle ∧
        v.csN = s.csN ∧ v.freeCount = s.freeCount ∧ v.chan = s.chan ∧ v.rxSr = s.miso.byte := by
      cases hg : s.cfg.diagEnable with
      | false =>
        refine ⟨exchanged filler (.window c) s, by constructor <;> rfl, rfl, rfl, fun t h => ?_, rfl, rfl, rfl, rfl, rfl, rfl⟩
        rw [windowLoop_more hz]
        refine Reaches.exchange hd hm ?_
        simp only [exchangeReturned, windowByteDone]
        rw [emitThen_off (by exact hg)]
        exact h
      | true =>
        refine ⟨((exchanged filler (.window c) s).record (.diag (.resp s.miso.byte))).goto (.mirrored c),
          by constructor <;> rfl, rfl, rfl, fun t h => ?_, rfl, rfl, rfl, rfl, rfl, rfl⟩
        rw [windowLoop_more hz]
        refine Reaches.exchange hd hm ?_
        simp only [exchangeReturned, windowByteDone]
        rw [emitThen_on (by exact hg)]
        exact Reaches.within (g := .mirrored c) rfl h
    obtain ⟨hvw, hvr⟩ := hvw
    obtain ⟨u, hk, hc, hsl, heg, hf, hwl, hsc, hmi, htr, hre⟩ :=
      ih { v with chan := { v.chan with scanLast := scanStep v.chan.scanLast v.rxSr, winLeft := v.chan.winLeft - 1 } }
        (by unfold DoneAtOnce at *; rw [← hd]; exact hv.xferDone)
        (by unfold MisoGiven at *; simpa [hvm] using hm)
        (by simpa [hvw] using hn') hvs hve
    refine ⟨u, hv.trans ⟨hk.1, hk.2, hk.3, hk.4, hk.5, hk.6, hk.7, hk.8, hk.9, hk.10, hk.11, hk.12, hk.13, hk.14⟩,
      hc.trans hvc, hsl, heg, hf.trans hvf, hwl, ?_, ?_, ?_, fun t h => hvd t (hre t h)⟩
    · rw [hsc]
      simp [Line.bytes, hvm, hvw, hvr]
    · rw [hmi]
      simp only [hvm, Line.skip_skip]
      rw [show 8 + 8 * n = 8 * (n + 1) by omega]
    · rw [htr]
      simp only [hvt, hvm, Line.bytes, List.flatMap_cons, List.reverse_append, List.append_assoc, hv.cfg]
      cases s.cfg.diagEnable <;> simp [diagEvent]

/-- A whole call of `SendCommand` (R143): from its latch to the return to its caller. -/
theorem command_run (i : Instr) (c : Caller) (k : Command) (s : State) (hd : DoneAtOnce s) (hm : MisoGiven s) :
    ∃ u, Kept s u ∧ u.csN = .driven true ∧ u.sclk = .driven false ∧ u.eng = .idle ∧
      u.miso = commandLine k s.miso ∧ u.trace = (commandEvents s.cfg.diagEnable k s.miso).reverse ++ s.trace ∧
      ∀ t, Reaches i (commandReturned c (commandResult k s.miso) u) t → Reaches i (enterCommand c k s) t := by
  obtain ⟨a, ha, hat, ham, hac, hacs, hre0⟩ : ∃ a : State, Kept s a ∧
      a.trace = .pin .csN false :: diagEvent s.cfg.diagEnable (.cmd k.cmd) ++ s.trace ∧ a.miso = s.miso ∧
      a.chan.command = k ∧ a.csN = .driven false ∧
      ∀ t, Reaches i (sendFrameByte 0 c a) t → Reaches i (enterCommand c k s) t := by
    cases hg : s.cfg.diagEnable with
    | false =>
      refine ⟨selectCard c (latch k s), by constructor <;> rfl, rfl, rfl, rfl, rfl, fun t h => ?_⟩
      unfold enterCommand
      rw [emitThen_off (by exact hg)]
      exact Reaches.within (g := .selected c) rfl h
    | true =>
      refine ⟨selectCard c (((latch k s).record (.diag (.cmd k.cmd))).goto (.announced c)), by constructor <;> rfl,
        rfl, rfl, rfl, rfl, fun t h => ?_⟩
      unfold enterCommand
      rw [emitThen_on (by exact hg)]
      exact Reaches.within (g := .announced c) rfl (Reaches.within (g := .selected c) rfl h)
  obtain ⟨b, hb, hbcs, hbs, hbe, -, hbch, hbm, hbt, hre1⟩ := frame_run i c a
    (by unfold DoneAtOnce at *; rw [← hd]; exact ha.xferDone) (by unfold MisoGiven at *; rwa [ham])
  have hab := ha.trans hb
  have hfw : b.chan.fWin = k.win := by
    rw [hbch, ← hac]
    rfl
  obtain ⟨w, hw, hwcs, hws, hwe, -, hwl, hwsc, hwm, hwt, hre2⟩ := window_run i c k.win.toNat
    { b with chan := { b.chan with scanLast := filler, winLeft := b.chan.fWin } }
    (by unfold DoneAtOnce at *; rw [← hd]; exact hab.xferDone)
    (by unfold MisoGiven at *; rw [← ham] at hm; simpa [hbm] using hm) (by rw [← hfw]) hbs hbe
  have hw : Kept b w :=
    ⟨hw.1, hw.2, hw.3, hw.4, hw.5, hw.6, hw.7, hw.8, hw.9, hw.10, hw.11, hw.12, hw.13, hw.14⟩
  have haw := hab.trans hw
  have hres : w.chan.scanLast = commandResult k s.miso := by
    rw [hwsc]
    simp only [hbm, ham]
    rfl
  have hline : w.miso = commandLine k s.miso := by
    rw [hwm]
    simp only [hbm, ham, Line.skip_skip, commandLine]
    rw [show 48 + 8 * k.win.toNat = 8 * (6 + k.win.toNat) by omega]
  have htr : Event.pin .csN true :: w.trace =
      (diagEvent s.cfg.diagEnable (.cmd k.cmd) ++ [Event.pin .csN false]
        ++ (List.zipWith exchangeEvents k.frame (s.miso.bytes 6)).flatten
        ++ ((s.miso.skip 48).bytes k.win.toNat).flatMap
          (fun b => exchangeEvents 0xFF#8 b ++ diagEvent s.cfg.diagEnable (.resp b))
        ++ [Event.pin .csN true]).reverse ++ s.trace := by
    rw [hwt]
    simp only [hbm, hbt, ham, hat, hac, hab.cfg, filler]
    cases s.cfg.diagEnable <;> simp [diagEvent]
  cases hg : s.cfg.diagEnable with
  | false =>
    refine ⟨forgetChannel ((releaseCS w).goto (.released c)), haw.trans (by constructor <;> rfl), rfl, hws, hwe, hline,
      ?_, fun t h => hre0 t (hre1 t (hre2 t (Reaches.within (g := .released c) rfl ?_)))⟩
    · rw [hg] at htr
      refine Eq.trans ?_ (htr.trans ?_)
      · rfl
      · simp [commandEvents, diagEvent]
    · simp only [resume, commandReleased]
      rw [emitThen_off (by exact haw.cfg ▸ hg)]
      simp only [commandEnded]
      rw [show ((releaseCS w).goto (.released c)).chan.scanLast = _ from hres]
      exact h
  | true =>
    refine ⟨forgetChannel ((((releaseCS w).goto (.released c)).record (.diag .done)).goto (.ended c)),
      haw.trans (by constructor <;> rfl), rfl, hws, hwe, hline, ?_,
      fun t h => hre0 t (hre1 t (hre2 t (Reaches.within (g := .released c) rfl ?_)))⟩
    · rw [hg] at htr
      refine (show Event.diag .done :: Event.pin .csN true :: w.trace = _ from ?_)
      rw [htr]
      simp [commandEvents, diagEvent]
    · simp only [resume, commandReleased]
      rw [emitThen_on (by exact haw.cfg ▸ hg)]
      refine Reaches.within (g := .ended c) rfl ?_
      simp only [resume, commandEnded]
      rw [show ((((releaseCS w).goto (.released c)).record (.diag .done)).goto (.ended c)).chan.scanLast = _ from hres]
      exact h

end Sys2Proof.Machine
end

