-- ==== Sys2Proof/Laws/Encoding.lean ====
section
/-! SUPPORT. The fields of an encoded word, and a word put together again from its fields (30_encoding.md R80). -/

namespace Sys2Proof

theorem bitIndex_congr {n : Nat} (v : BitVec n) {i j : Nat} (h : i = j) : v.getLsbD i = v.getLsbD j := by rw [h]

@[simp] theorem opcodeField_encodeN (op : Byte) : opcodeField (encodeN op) = op := by
  unfold opcodeField encodeN
  ext i hi
  rw [BitVec.getElem_extractLsb', BitVec.getLsbD_append, if_neg (by omega), ← BitVec.getLsbD_eq_getElem]
  exact bitIndex_congr op (by omega)

@[simp] theorem reservedN_encodeN (op : Byte) : reservedN (encodeN op) = 0 := by
  unfold reservedN encodeN
  ext i hi
  rw [BitVec.getElem_extractLsb', BitVec.getLsbD_append, if_pos (by omega)]
  simp

@[simp] theorem opcodeField_encodeX (op out : Byte) : opcodeField (encodeX op out) = op := by
  unfold opcodeField encodeX
  ext i hi
  rw [BitVec.getElem_extractLsb', BitVec.getLsbD_append, BitVec.getLsbD_append, if_neg (by omega), if_neg (by omega),
    ← BitVec.getLsbD_eq_getElem]
  exact bitIndex_congr op (by omega)

@[simp] theorem reservedX_encodeX (op out : Byte) : reservedX (encodeX op out) = 0 := by
  unfold reservedX encodeX
  ext i hi
  rw [BitVec.getElem_extractLsb', BitVec.getLsbD_append, BitVec.getLsbD_append, if_neg (by omega), if_pos (by omega)]
  simp

@[simp] theorem lowField_encodeX (op out : Byte) : lowField (encodeX op out) = out := by
  unfold lowField encodeX
  ext i hi
  rw [BitVec.getElem_extractLsb', BitVec.getLsbD_append, if_pos (by omega), ← BitVec.getLsbD_eq_getElem]
  exact bitIndex_congr out (by omega)

@[simp] theorem opcodeField_encodeC (op cmd : Byte) (arg : Arg) (crc win : Byte) :
    opcodeField (encodeC op cmd arg crc win) = op := by
  unfold opcodeField encodeC
  ext i hi
  rw [BitVec.getElem_extractLsb', BitVec.getLsbD_append, BitVec.getLsbD_append, BitVec.getLsbD_append,
    BitVec.getLsbD_append, if_neg (by omega), if_neg (by omega), if_neg (by omega), if_neg (by omega),
    ← BitVec.getLsbD_eq_getElem]
  exact bitIndex_congr op (by omega)

@[simp] theorem cmdField_encodeC (op cmd : Byte) (arg : Arg) (crc win : Byte) :
    cmdField (encodeC op cmd arg crc win) = cmd := by
  unfold cmdField encodeC
  ext i hi
  rw [BitVec.getElem_extractLsb', BitVec.getLsbD_append, BitVec.getLsbD_append, BitVec.getLsbD_append,
    BitVec.getLsbD_append, if_neg (by omega), if_neg (by omega), if_neg (by omega), if_pos (by omega),
    ← BitVec.getLsbD_eq_getElem]
  exact bitIndex_congr cmd (by omega)

@[simp] theorem argField_encodeC (op cmd : Byte) (arg : Arg) (crc win : Byte) :
    argField (encodeC op cmd arg crc win) = arg := by
  unfold argField encodeC
  ext i hi
  rw [BitVec.getElem_extractLsb', BitVec.getLsbD_append, BitVec.getLsbD_append, BitVec.getLsbD_append,
    if_neg (by omega), if_neg (by omega), if_pos (by omega), ← BitVec.getLsbD_eq_getElem]
  exact bitIndex_congr arg (by omega)

@[simp] theorem crcField_encodeC (op cmd : Byte) (arg : Arg) (crc win : Byte) :
    crcField (encodeC op cmd arg crc win) = crc := by
  unfold crcField encodeC
  ext i hi
  rw [BitVec.getElem_extractLsb', BitVec.getLsbD_append, BitVec.getLsbD_append, if_neg (by omega), if_pos (by omega),
    ← BitVec.getLsbD_eq_getElem]
  exact bitIndex_congr crc (by omega)

@[simp] theorem lowField_encodeC (op cmd : Byte) (arg : Arg) (crc win : Byte) :
    lowField (encodeC op cmd arg crc win) = win := by
  unfold lowField encodeC
  ext i hi
  rw [BitVec.getElem_extractLsb', BitVec.getLsbD_append, if_pos (by omega), ← BitVec.getLsbD_eq_getElem]
  exact bitIndex_congr win (by omega)

/-- A format C word is its fields put together. -/
theorem encodeC_fields (w : Request) :
    encodeC (opcodeField w) (cmdField w) (argField w) (crcField w) (lowField w) = w := by
  unfold encodeC opcodeField cmdField argField crcField lowField
  apply BitVec.eq_of_getLsbD_eq
  intro i hi
  rw [BitVec.getLsbD_append, BitVec.getLsbD_append, BitVec.getLsbD_append, BitVec.getLsbD_append]
  simp only [BitVec.getLsbD_extractLsb']
  (repeat' split) <;> rw [decide_eq_true (by omega), Bool.true_and] <;> exact bitIndex_congr w (by omega)

/-- A format X word with its reserved bits 0 is its opcode and its low byte put together. -/
theorem encodeX_fields (w : Request) (h : reservedX w = 0) : encodeX (opcodeField w) (lowField w) = w := by
  rw [show encodeX (opcodeField w) (lowField w) = opcodeField w ++ reservedX w ++ lowField w by rw [h]; rfl]
  unfold opcodeField reservedX lowField
  apply BitVec.eq_of_getLsbD_eq
  intro i hi
  rw [BitVec.getLsbD_append, BitVec.getLsbD_append]
  simp only [BitVec.getLsbD_extractLsb']
  (repeat' split) <;> rw [decide_eq_true (by omega), Bool.true_and] <;> exact bitIndex_congr w (by omega)

/-- A format N word with its reserved bits 0 is its opcode. -/
theorem encodeN_fields (w : Request) (h : reservedN w = 0) : encodeN (opcodeField w) = w := by
  rw [show encodeN (opcodeField w) = opcodeField w ++ reservedN w by rw [h]; rfl]
  unfold opcodeField reservedN
  apply BitVec.eq_of_getLsbD_eq
  intro i hi
  rw [BitVec.getLsbD_append]
  simp only [BitVec.getLsbD_extractLsb']
  (repeat' split) <;> rw [decide_eq_true (by omega), Bool.true_and] <;> exact bitIndex_congr w (by omega)

theorem halves_append (a b c d : Byte) (n : Arg) : ((a ++ b : Half) ++ n ++ (c ++ d : Half) : Request) = encodeC a b n c d := by
  unfold encodeC
  apply BitVec.eq_of_getLsbD_eq
  intro i hi
  have left : ((a ++ b : Half) ++ n ++ (c ++ d : Half) : Request).getLsbD i =
      if i < 16 then (c ++ d : Half).getLsbD i else
        if i - 16 < 32 then n.getLsbD (i - 16) else (a ++ b : Half).getLsbD (i - 16 - 32) := by
    have inner : ((a ++ b : Half) ++ n).getLsbD (i - 16) =
        if i - 16 < 32 then n.getLsbD (i - 16) else (a ++ b : Half).getLsbD (i - 16 - 32) := BitVec.getLsbD_append
    rw [← inner]
    exact BitVec.getLsbD_append
  have low : (c ++ d : Half).getLsbD i = if i < 8 then d.getLsbD i else c.getLsbD (i - 8) := BitVec.getLsbD_append
  have high (j : Nat) : (a ++ b : Half).getLsbD j = if j < 8 then b.getLsbD j else a.getLsbD (j - 8) :=
    BitVec.getLsbD_append
  rw [left, low, high]
  rw [BitVec.getLsbD_append, BitVec.getLsbD_append, BitVec.getLsbD_append, BitVec.getLsbD_append]
  (repeat' split) <;> first | omega | exact bitIndex_congr _ (by omega)

/-- SET_BLOCKLEN's word is a format C word (R97). -/
theorem setBlocklen_word (n : Arg) : encode (.setBlocklen n) = encodeC 0x05#8 0x50#8 n 0xFF#8 8#8 :=
  halves_append 0x05#8 0x50#8 0xFF#8 8#8 n

/-- Everything a word that decodes can be. -/
theorem decode_cases {w : Request} {i : Instr} (h : decode w = .ok i) :
    (opcodeField w = 0x01#8 ∧ reservedN w = 0 ∧ i = .initBus) ∨
    (opcodeField w = 0x02#8 ∧ reservedN w = 0 ∧ i = .select) ∨
    (opcodeField w = 0x03#8 ∧ reservedN w = 0 ∧ i = .deselect) ∨
    (opcodeField w = 0x04#8 ∧ reservedX w = 0 ∧ i = .xchg (lowField w)) ∨
    (opcodeField w = 0x05#8 ∧ i = .sendCmd (cmdField w) (argField w) (crcField w) (lowField w)) ∨
    (opcodeField w = 0x06#8 ∧ reservedN w = 0 ∧ i = .cardInit) := by
  unfold decode decodeN decodeX decodeC at h
  repeat' split at h
  all_goals simp_all

/-- The opcode of a decoded instruction is its word's. -/
theorem decode_opcode {w : Request} {i : Instr} (h : decode w = .ok i) : i.opcode = opcodeField w := by
  rcases decode_cases h with ⟨a, _, rfl⟩ | ⟨a, _, rfl⟩ | ⟨a, _, rfl⟩ | ⟨a, _, rfl⟩ | ⟨a, rfl⟩ | ⟨a, _, rfl⟩ <;>
    rw [a] <;> rfl

/-- The opcode byte of an instruction's word. -/
theorem opcodeField_encode (i : Instr) : opcodeField (encode i) = i.opcode := by
  cases i with
  | initBus => exact opcodeField_encodeN _
  | select => exact opcodeField_encodeN _
  | deselect => exact opcodeField_encodeN _
  | xchg out => exact opcodeField_encodeX _ _
  | sendCmd cmd arg crc win => exact opcodeField_encodeC _ _ _ _ _
  | cardInit => exact opcodeField_encodeN _
  | fill => decide
  | goIdleState => decide
  | sendOpCond => decide
  | setBlocklen n => rw [setBlocklen_word]; exact opcodeField_encodeC _ _ _ _ _

end Sys2Proof
end

