-- ==== Sys2Proof/Laws/Environment.lean ====
section
/-! SUPPORT. The environment premises: how a poll moves `doneAfter` on, that no step changes a line's steady level, and the lines
that meet `DoneLive` and `DoneNever`. -/

namespace Sys2Proof.Machine

@[simp] theorem State.doneAfter_zero (s : State) : s.doneAfter 0 = inputLevel .xferDone s := by
  simp [State.doneAfter, inputLevel, State.line, Line.skip]

/-- A poll that reads 0 leaves one sample fewer to wait for. -/
theorem doneAfter_pinRead {s : State} (m : Nat) (h : inputLevel .xferDone s = false) :
    (pinRead .xferDone s).doneAfter m = s.doneAfter (m + 1) := by
  have tr : List.replicate m (Event.sample .xferDone false) ++ .sample .xferDone false :: s.trace =
      List.replicate (m + 1) (.sample .xferDone false) ++ s.trace := by
    rw [List.replicate_succ', List.append_assoc]
    rfl
  simp only [State.doneAfter, pinRead, State.setLine, State.record, State.line, h]
  rw [tr]
  simp [Line.skip, Line.next]

/-- A line that settles at a level has it after its script. -/
theorem doneAfter_settled {s : State} {b : Bool} (h : s.xferDone.steady = some b) :
    s.doneAfter s.xferDone.script.length = b := by
  simp [State.doneAfter, Line.skip, Line.level, h]

/-- A script of zeros that settles at 0 never reads 1. -/
theorem doneNever_of_silent {s : State} (hs : ∀ b ∈ s.xferDone.script, b = false) (h : s.xferDone.steady = some false) :
    DoneNever s := by
  intro m
  simp only [State.doneAfter, Line.skip, Line.level]
  cases hd : s.xferDone.script.drop m with
  | nil => simp [h]
  | cons b bs => exact hs b (List.mem_of_mem_drop (hd ▸ List.mem_cons_self))

theorem pinRead_steady (p : InPin) (s : State) : (pinRead p s).xferDone.steady = s.xferDone.steady := by
  cases p <;> rfl

theorem firstStep_steady (i : Instr) (s : State) : (firstStep i s).xferDone.steady = s.xferDone.steady := by
  cases hc : s.configured <;> cases hd : s.cfg.diagEnable <;> cases i <;>
    simp [firstStep, admitted, hc, raise, complete, acquireCS, releaseCS, beginExchange, driveBit, pinWrite, State.setPin,
      State.record, State.goto, enterCommand, emitThen, emit, latch, selectCard, hd, beginCardInit]

theorem engineStep_steady (x : XferStep) (site : Site) (s : State) :
    (engineStep x site s).xferDone.steady = s.xferDone.steady := by
  cases x with
  | repoll =>
    cases hl : s.cfg.pollLimit with
    | none =>
      simp only [engineStep, pollAgain_unbounded hl]
      exact pinRead_steady .xferDone s
    | some n =>
      by_cases hn : s.pollCnt + 1 = n
      · simp only [engineStep, pollAgain_limit hl hn]
        rfl
      · simp only [engineStep, pollAgain_below hl hn]
        exact pinRead_steady .xferDone _
  | rise => rfl
  | settle => rfl
  | poll => exact pinRead_steady .xferDone _
  | sample => rfl
  | fall => rfl

theorem enterCommand_steady (c : Caller) (k : Command) (s : State) :
    (enterCommand c k s).xferDone.steady = s.xferDone.steady := by
  cases hd : s.cfg.diagEnable <;> simp only [enterCommand, emitThen, emit, latch, hd] <;> rfl

theorem windowLoop_steady (c : Caller) (s : State) : (windowLoop c s).xferDone.steady = s.xferDone.steady := by
  unfold windowLoop
  split <;> rfl

theorem prefixLoop_steady (s : State) : (prefixLoop s).xferDone.steady = s.xferDone.steady := by
  unfold prefixLoop
  split
  · exact enterCommand_steady _ _ _
  · rfl

theorem judgeBlocklen_steady (r : Byte) (s : State) : (judgeBlocklen r s).xferDone.steady = s.xferDone.steady := by
  rw [judgeBlocklen_eq]
  rfl

theorem commandEnded_steady (c : Caller) (s : State) : (commandEnded c s).xferDone.steady = s.xferDone.steady := by
  cases c with
  | host => rfl
  | idle =>
    simp only [commandEnded, commandReturned, idleResult]
    split
    · exact enterCommand_steady _ _ _
    · rfl
  | opcond =>
    simp only [commandEnded, commandReturned, opcondResult]
    split
    · exact enterCommand_steady _ _ _
    · rfl
  | blocklen =>
    cases hd : s.cfg.diagEnable with
    | false =>
      simp only [commandEnded, commandReturned, blocklenResult]
      rw [emitThen_off (by exact hd)]
      exact judgeBlocklen_steady _ _
    | true =>
      simp only [commandEnded, commandReturned, blocklenResult]
      rw [emitThen_on (by exact hd)]
      rfl

theorem bitDone_steady (site : Site) (s : State) : (bitDone site s).xferDone.steady = s.xferDone.steady := by
  unfold bitDone
  split
  · cases site with
    | raw => rfl
    | prefixByte => exact prefixLoop_steady _
    | frame c =>
      simp only [exchangeReturned, frameByteDone]
      split
      · exact windowLoop_steady c _
      · rfl
    | window c =>
      cases hd : s.cfg.diagEnable with
      | false =>
        simp only [exchangeReturned, windowByteDone]
        rw [emitThen_off (by exact hd)]
        exact windowLoop_steady c _
      | true =>
        simp only [exchangeReturned, windowByteDone]
        rw [emitThen_on (by exact hd)]
        rfl
  · rfl

theorem resume_steady (g : Seg) (s : State) : (resume g s).xferDone.steady = s.xferDone.steady := by
  cases g with
  | xfer x site => exact engineStep_steady x site s
  | fallen site => exact bitDone_steady site s
  | timedOut site => cases site <;> rfl
  | mirrored c => exact windowLoop_steady c _
  | released c =>
    cases hd : s.cfg.diagEnable with
    | false =>
      simp only [resume, commandReleased]
      rw [emitThen_off hd]
      exact commandEnded_steady c s
    | true =>
      simp only [resume, commandReleased]
      rw [emitThen_on hd]
      rfl
  | ended c => exact commandEnded_steady c s
  | aborted c => cases c <;> rfl
  | prefixStart => exact prefixLoop_steady _
  | idleBackedOff =>
    simp only [resume, idleRetry]
    split
    · rfl
    · exact enterCommand_steady _ _ _
  | opcondBackedOff =>
    simp only [resume, opcondRetry]
    split
    · rfl
    · exact enterCommand_steady _ _ _
  | reported r => exact judgeBlocklen_steady r s
  | initSclk => rfl
  | initMosi => rfl
  | initDone => rfl
  | acknowledge => rfl
  | announced c => rfl
  | selected c => rfl
  | abandoned => rfl

/-- No step changes the level XFER_DONE settles at. -/
theorem step_steady {s t : State} (h : step s = .next t) : t.xferDone.steady = s.xferDone.steady := by
  rcases step_cases h with ⟨_, rfl⟩ | ⟨_, _, _, rfl⟩ | ⟨_, _, w, ws, _, rfl⟩ |
    ⟨_, op, _, ⟨e, _, rfl⟩ | ⟨i, _, _, rfl⟩ | ⟨i, g, _, _, rfl⟩⟩
  · rfl
  · rfl
  · rfl
  · rfl
  · exact firstStep_steady i s
  · exact resume_steady g s

theorem run_steady {n : Nat} {s t : State} (h : run n s = .next t) : t.xferDone.steady = s.xferDone.steady := by
  induction n generalizing s with
  | zero => cases h; rfl
  | succ n ih =>
    simp only [run] at h
    split at h
    · rename_i u hu
      exact (ih h).trans (step_steady hu)
    · cases h
    · cases h

/-- A line that settles at 1 is live. -/
theorem doneLive_of_settled {s : State} (h : s.xferDone.steady = some true) : DoneLive s :=
  fun _ t ht _ => ⟨t.xferDone.script.length, doneAfter_settled ((run_steady ht).trans h)⟩

/-- A live environment stays live along a run. -/
theorem DoneLive.run {n : Nat} {s t : State} (hl : DoneLive s) (h : run n s = .next t) : DoneLive t :=
  fun m u hu hp => hl (n + m) u ((run_add h).trans hu) hp

end Sys2Proof.Machine
end

