-- ==== Sys2Proof/Laws/History.lean ====
section
/-! SUPPORT. The byte-level view across requests: what one request puts in it does not depend on what another left. -/

namespace Sys2Proof.Machine

/-- The bytes of a history are those before a request's acceptance, then the request's own. -/
theorem byteView_accept (w : Request) (ys : List Event) :
    ∀ (xs : List Event) (acc : List (Bool × Bool)) (o : Option Bool),
      byteView acc o (xs ++ .accept w :: ys) = byteView acc o xs ++ byteView [] none ys := by
  intro xs
  induction xs with
  | nil => intro acc o; simp [byteView]
  | cons e xs ih =>
    intro acc o
    cases e with
    | accept v => simp [byteView, ih]
    | pin p v => cases p <;> simp [byteView, ih]
    | sample p v =>
      cases p with
      | xferDone => simp [byteView, ih]
      | miso =>
        simp only [List.cons_append, byteView]
        split <;> simp [ih]
    | delay k => cases k <;> simp [byteView, ih]
    | diag d => simp [byteView, ih]
    | complete r => simp [byteView, ih]
    | reset => simp [byteView, ih]

/-- A completion adds no byte. -/
theorem byteView_complete (r : Half) :
    ∀ (xs : List Event) (acc : List (Bool × Bool)) (o : Option Bool),
      byteView acc o (xs ++ [.complete r]) = byteView acc o xs := by
  intro xs
  induction xs with
  | nil => intro acc o; simp [byteView]
  | cons e xs ih =>
    intro acc o
    cases e with
    | accept v => simp [byteView, ih]
    | pin p v => cases p <;> simp [byteView, ih]
    | sample p v =>
      cases p with
      | xferDone => simp [byteView, ih]
      | miso =>
        simp only [List.cons_append, byteView]
        split <;> simp [ih]
    | delay k => cases k <;> simp [byteView, ih]
    | diag d => simp [byteView, ih]
    | complete r => simp [byteView, ih]
    | reset => simp [byteView, ih]

end Sys2Proof.Machine
end

