-- ==== Sys2Proof/Laws/Init.lean ====
section
/-! SUPPORT. The loops of CARD_INIT said once: the prefix and the two retry loops, when every completion poll reads 1 at once
and MISO's samples are given. -/

namespace Sys2Proof.Machine

/-- What the whole of CARD_INIT leaves alone. -/
structure Beside (s u : State) : Prop where
  configured : u.configured = s.configured
  ctl : u.ctl = s.ctl
  req : u.req = s.req
  cfg : u.cfg = s.cfg
  xferDone : u.xferDone = s.xferDone
  host : u.host = s.host

theorem Beside.refl (s : State) : Beside s s := by
  constructor <;> rfl

theorem Beside.trans {s t u : State} (h : Beside s t) (k : Beside t u) : Beside s u :=
  ⟨k.1.trans h.1, k.2.trans h.2, k.3.trans h.3, k.4.trans h.4, k.5.trans h.5, k.6.trans h.6⟩

theorem Kept.beside {s u : State} (h : Kept s u) : Beside s u :=
  ⟨h.configured, h.ctl, h.req, h.cfg, h.xferDone, h.host⟩

theorem Beside.doneAtOnce {s u : State} (h : Beside s u) (hd : DoneAtOnce s) : DoneAtOnce u := by
  unfold DoneAtOnce at *
  rw [h.xferDone, hd]

/-- The rest of the prefix, `n` fillers (42_card_init.md R173). -/
theorem prefix_run (i : Instr) (n : Nat) :
    ∀ s : State, DoneAtOnce s → MisoGiven s → s.prefixLeft.toNat = n →
    ∃ u, Beside s u ∧ u.csN = s.csN ∧ u.miso = s.miso.skip (8 * n) ∧
      u.trace = ((s.miso.bytes n).flatMap (exchangeEvents 0xFF#8)).reverse ++ s.trace ∧
      ∀ t, Reaches i (idleAttempt { u with attempt := 0 }) t → Reaches i (prefixLoop s) t := by
  induction n with
  | zero =>
    intro s hd hm hn
    have hz : s.prefixLeft = 0 := BitVec.eq_of_toNat_eq hn
    refine ⟨s, Beside.refl s, rfl, by simp [Line.skip_zero], by simp [Line.bytes], fun t h => ?_⟩
    rw [prefixLoop_end hz]
    exact h
  | succ n ih =>
    intro s hd hm hn
    have hz : s.prefixLeft ≠ 0 := by
      intro h
      rw [h] at hn
      simp at hn
    obtain ⟨u, hb, hc, hmi, htr, hre⟩ :=
      ih { exchanged filler .prefixByte s with prefixLeft := s.prefixLeft - 1 } hd hm (by
        have := s.prefixLeft.isLt
        rw [BitVec.toNat_sub]
        simp
        omega)
    refine ⟨u, ⟨hb.1, hb.2, hb.3, hb.4, hb.5, hb.6⟩, hc, ?_, ?_, fun t h => ?_⟩
    · rw [hmi]
      simp only [exchanged, afterExchange, Line.skip_skip]
      rw [show 8 + 8 * n = 8 * (n + 1) by omega]
    · rw [htr]
      simp [exchanged, afterExchange, Line.bytes, filler]
    · rw [prefixLoop_more hz]
      refine Reaches.exchange hd hm ?_
      exact hre t h

/-- The rest of the idle loop (R175 to R178), `left` attempts still allowed. -/
theorem idle_loop_run (i : Instr) (left : Nat) :
    ∀ s : State, DoneAtOnce s → MisoGiven s → s.attempt.toNat + left = s.cfg.idleRetryLimit.toNat → left ≠ 0 →
    let r := retryLoop s.cfg.diagEnable (Command.idle s.cfg) 0x01#8 left s.attempt.toNat s.miso
    ∃ u, Beside s u ∧ u.csN = .driven true ∧ u.sclk = .driven false ∧ u.eng = .idle ∧ u.miso = r.line ∧
      u.attempt.toNat = r.attempts ∧ u.trace = r.events.reverse ++ s.trace ∧
      (r.success = true → ∀ t, Reaches i (opcondAttempt { u with attempt := 0 }) t → Reaches i (idleAttempt s) t) ∧
      (r.success = false → ∀ t, Reaches i (conclude .ok .idleExhausted u) t → Reaches i (idleAttempt s) t) := by
  induction left with
  | zero => intro s _ _ _ h; exact absurd rfl h
  | succ left ih =>
    intro s hd hm hl _
    have hlim := s.cfg.idleRetryLimit.isLt
    have hat : (s.attempt + 1).toNat = s.attempt.toNat + 1 := by
      rw [BitVec.toNat_add]
      simp
      omega
    obtain ⟨u, hk, hcs, hsl, heg, hmi, htr, hre⟩ := command_run i .idle (Command.idle s.cfg)
      { s with initPhase := .idleCmd, attempt := s.attempt + 1 } hd hm
    have hb : Beside s u := ⟨hk.configured, hk.ctl, hk.req, hk.cfg, hk.xferDone, hk.host⟩
    have hua : u.attempt = s.attempt + 1 := hk.attempt
    simp only [retryLoop]
    by_cases hg : commandResult (Command.idle s.cfg) s.miso = 0x01#8
    · rw [if_pos hg]
      refine ⟨u, hb, hcs, hsl, heg, hmi, hua ▸ hat, htr, fun _ t h => hre t ?_, fun h => by simp at h⟩
      simp only [commandReturned]
      rw [idleResult_good hg]
      exact h
    · rw [if_neg hg]
      by_cases hz : left = 0
      · subst hz
        refine ⟨(delay .backoff { u with initPhase := .idleBackoff }).goto .idleBackedOff,
          hb.trans (by constructor <;> rfl), hcs, hsl, heg, hmi, ?_, ?_, fun h => by simp [retryLoop] at h,
          fun _ t h => hre t ?_⟩
        · simpa [retryLoop, hua] using hat
        · simp [retryLoop, delay, htr]
        · simp only [commandReturned]
          rw [idleResult_bad hg]
          refine Reaches.within (g := .idleBackedOff) rfl ?_
          simp only [resume]
          rw [idleRetry_limit]
          · exact h
          · apply BitVec.eq_of_toNat_eq
            simp [delay, hua, hb.cfg]
            omega
      · obtain ⟨v, hvb, hvc, hvs, hve, hvm, hva, hvt, hvy, hvn⟩ :=
          ih ((delay .backoff { u with initPhase := .idleBackoff }).goto .idleBackedOff)
            (hb.doneAtOnce hd) (by
              unfold MisoGiven at *
              simpa [delay, hmi, commandLine] using hm)
            (by simp [delay, hua, hb.cfg]; omega) hz
        have e1 : ((delay .backoff { u with initPhase := .idleBackoff }).goto .idleBackedOff).attempt.toNat =
            s.attempt.toNat + 1 := hua ▸ hat
        have e2 : ((delay .backoff { u with initPhase := .idleBackoff }).goto .idleBackedOff).cfg = s.cfg := hb.cfg
        have e3 : ((delay .backoff { u with initPhase := .idleBackoff }).goto .idleBackedOff).miso =
            commandLine (Command.idle s.cfg) s.miso := hmi
        rw [e1, e2, e3] at hvm hva hvt hvy hvn
        have again : ∀ t, Reaches i (idleAttempt ((delay .backoff { u with initPhase := .idleBackoff }).goto
            .idleBackedOff)) t → Reaches i (idleAttempt s) t := by
          intro t h
          refine hre t ?_
          simp only [commandReturned]
          rw [idleResult_bad hg]
          refine Reaches.within (g := .idleBackedOff) rfl ?_
          simp only [resume]
          rw [idleRetry_again]
          · exact h
          · intro hh
            have := congrArg BitVec.toNat hh
            simp [delay, hua, hb.cfg] at this
            omega
        refine ⟨v, hb.trans ⟨hvb.1, hvb.2, hvb.3, hvb.4, hvb.5, hvb.6⟩, hvc, hvs, hve, hvm, hva, ?_,
          fun h t k => again t (hvy h t k), fun h t k => again t (hvn h t k)⟩
        rw [hvt]
        simp [delay, htr]

/-- The rest of the op-cond loop (R179 to R181), `left` attempts still allowed. -/
theorem opcond_loop_run (i : Instr) (left : Nat) :
    ∀ s : State, DoneAtOnce s → MisoGiven s → s.attempt.toNat + left = s.cfg.opcondRetryLimit.toNat → left ≠ 0 →
    let r := retryLoop s.cfg.diagEnable (Command.opcond s.cfg) 0x00#8 left s.attempt.toNat s.miso
    ∃ u, Beside s u ∧ u.csN = .driven true ∧ u.sclk = .driven false ∧ u.eng = .idle ∧ u.miso = r.line ∧
      u.attempt.toNat = r.attempts ∧ u.trace = r.events.reverse ++ s.trace ∧
      (r.success = true → ∀ t, Reaches i (sendBlocklen u) t → Reaches i (opcondAttempt s) t) ∧
      (r.success = false → ∀ t, Reaches i (conclude .ok .opcondExhausted u) t → Reaches i (opcondAttempt s) t) := by
  induction left with
  | zero => intro s _ _ _ h; exact absurd rfl h
  | succ left ih =>
    intro s hd hm hl _
    have hlim := s.cfg.opcondRetryLimit.isLt
    have hat : (s.attempt + 1).toNat = s.attempt.toNat + 1 := by
      rw [BitVec.toNat_add]
      simp
      omega
    obtain ⟨u, hk, hcs, hsl, heg, hmi, htr, hre⟩ := command_run i .opcond (Command.opcond s.cfg)
      { s with initPhase := .opcondCmd, attempt := s.attempt + 1 } hd hm
    have hb : Beside s u := ⟨hk.configured, hk.ctl, hk.req, hk.cfg, hk.xferDone, hk.host⟩
    have hua : u.attempt = s.attempt + 1 := hk.attempt
    simp only [retryLoop]
    by_cases hg : commandResult (Command.opcond s.cfg) s.miso = 0x00#8
    · rw [if_pos hg]
      refine ⟨u, hb, hcs, hsl, heg, hmi, hua ▸ hat, htr, fun _ t h => hre t ?_, fun h => by simp at h⟩
      simp only [commandReturned]
      rw [opcondResult_good hg]
      exact h
    · rw [if_neg hg]
      by_cases hz : left = 0
      · subst hz
        refine ⟨(delay .backoff { u with initPhase := .opcondBackoff }).goto .opcondBackedOff,
          hb.trans (by constructor <;> rfl), hcs, hsl, heg, hmi, ?_, ?_, fun h => by simp [retryLoop] at h,
          fun _ t h => hre t ?_⟩
        · simpa [retryLoop, hua] using hat
        · simp [retryLoop, delay, htr]
        · simp only [commandReturned]
          rw [opcondResult_bad hg]
          refine Reaches.within (g := .opcondBackedOff) rfl ?_
          simp only [resume]
          rw [opcondRetry_limit]
          · exact h
          · apply BitVec.eq_of_toNat_eq
            simp [delay, hua, hb.cfg]
            omega
      · obtain ⟨v, hvb, hvc, hvs, hve, hvm, hva, hvt, hvy, hvn⟩ :=
          ih ((delay .backoff { u with initPhase := .opcondBackoff }).goto .opcondBackedOff)
            (hb.doneAtOnce hd) (by
              unfold MisoGiven at *
              simpa [delay, hmi, commandLine] using hm)
            (by simp [delay, hua, hb.cfg]; omega) hz
        have e1 : ((delay .backoff { u with initPhase := .opcondBackoff }).goto .opcondBackedOff).attempt.toNat =
            s.attempt.toNat + 1 := hua ▸ hat
        have e2 : ((delay .backoff { u with initPhase := .opcondBackoff }).goto .opcondBackedOff).cfg = s.cfg := hb.cfg
        have e3 : ((delay .backoff { u with initPhase := .opcondBackoff }).goto .opcondBackedOff).miso =
            commandLine (Command.opcond s.cfg) s.miso := hmi
        rw [e1, e2, e3] at hvm hva hvt hvy hvn
        have again : ∀ t, Reaches i (opcondAttempt ((delay .backoff { u with initPhase := .opcondBackoff }).goto
            .opcondBackedOff)) t → Reaches i (opcondAttempt s) t := by
          intro t h
          refine hre t ?_
          simp only [commandReturned]
          rw [opcondResult_bad hg]
          refine Reaches.within (g := .opcondBackedOff) rfl ?_
          simp only [resume]
          rw [opcondRetry_again]
          · exact h
          · intro hh
            have := congrArg BitVec.toNat hh
            simp [delay, hua, hb.cfg] at this
            omega
        refine ⟨v, hb.trans ⟨hvb.1, hvb.2, hvb.3, hvb.4, hvb.5, hvb.6⟩, hvc, hvs, hve, hvm, hva, ?_,
          fun h t k => again t (hvy h t k), fun h t k => again t (hvn h t k)⟩
        rw [hvt]
        simp [delay, htr]

end Sys2Proof.Machine
end

