-- ==== Sys2Proof/Laws/PerInstr.lean ====
section
/-! SUPPORT. Facts said of each instruction as syntax. The family `OpcodeByte`: the top byte of an instruction's word is the
opcode of 30_encoding.md R81, and what the instruction stands for (R97) is a request of that map with the same opcode. -/

namespace Sys2Proof.Laws.OpcodeByte

/-- The opcode byte of the word, and the request it stands for. -/
def Statement (i : Instr) : Prop :=
  opcodeField (encode i) = i.opcode ∧ i.expand.wellFormed = true ∧ i.expand.opcode = i.opcode

theorem initBus : Statement .initBus := ⟨opcodeField_encode _, rfl, rfl⟩

theorem select : Statement .select := ⟨opcodeField_encode _, rfl, rfl⟩

theorem deselect : Statement .deselect := ⟨opcodeField_encode _, rfl, rfl⟩

theorem xchg (out : Byte) : Statement (.xchg out) := ⟨opcodeField_encode _, rfl, rfl⟩

theorem sendCmd (cmd : Byte) (arg : Arg) (crc win : Byte) : Statement (.sendCmd cmd arg crc win) :=
  ⟨opcodeField_encode _, rfl, rfl⟩

theorem cardInit : Statement .cardInit := ⟨opcodeField_encode _, rfl, rfl⟩

theorem fill : Statement .fill := ⟨opcodeField_encode _, rfl, rfl⟩

theorem goIdleState : Statement .goIdleState := ⟨opcodeField_encode _, rfl, rfl⟩

theorem sendOpCond : Statement .sendOpCond := ⟨opcodeField_encode _, rfl, rfl⟩

theorem setBlocklen (n : Arg) : Statement (.setBlocklen n) := ⟨opcodeField_encode _, rfl, rfl⟩

end Sys2Proof.Laws.OpcodeByte
end

