-- ==== Sys2Proof/Tests/Slice0.lean ====
section
/-! SUPPORT. Tests: decoding, assembly and single steps against the spec's own tables and vectors (95_test_vectors.md), and for
every obligation with hypotheses a concrete state and operands that meet them. -/

namespace Sys2Proof.Tests

open Sys2Proof.Machine

/-! ### Well-formedness -/

theorem test_fill_is_no_request : Instr.fill.wellFormed = false := by decide

theorem test_goIdleState_is_no_request : Instr.goIdleState.wellFormed = false := by decide

theorem test_sendOpCond_is_no_request : Instr.sendOpCond.wellFormed = false := by decide

theorem test_setBlocklen_is_no_request : (Instr.setBlocklen 512).wellFormed = false := by decide

theorem test_core_requests_are_wellFormed :
    Instr.initBus.wellFormed ∧ Instr.select.wellFormed ∧ Instr.deselect.wellFormed ∧ (Instr.xchg 0xA5).wellFormed ∧
      (Instr.sendCmd 0x40 0 0x95 8).wellFormed ∧ Instr.cardInit.wellFormed := by decide

/-! ### Decoding: words from R81, R83, R85, R87, R97, R98 and vectors D-1 to D-6 -/

theorem test_decode_initBus : decode (0b00000001#8 ++ 0#56) = .ok .initBus := by decide

theorem test_decode_select : decode (0b00000010#8 ++ 0#56) = .ok .select := by decide

theorem test_decode_deselect : decode (0b00000011#8 ++ 0#56) = .ok .deselect := by decide

theorem test_decode_xchg : decode (0b00000100#8 ++ 0#48 ++ 0b10100101#8) = .ok (.xchg 0xA5) := by decide

theorem test_decode_sendCmd :
    decode (0b00000101#8 ++ 0b01010001#8 ++ 0x12345678#32 ++ 0b00000001#8 ++ 0b00001000#8) =
      .ok (.sendCmd 0x51 0x12345678 0x01 0x08) := by decide

theorem test_decode_cardInit : decode (0b00000110#8 ++ 0#56) = .ok .cardInit := by decide

theorem test_decode_fill_word : decode 0x04000000000000FF#64 = .ok (.xchg 0xFF) := by decide

theorem test_decode_goIdleState_word : decode 0x0540000000009508#64 = .ok (.sendCmd 0x40 0 0x95 8) := by decide

theorem test_decode_sendOpCond_word : decode 0x054100000000FF08#64 = .ok (.sendCmd 0x41 0 0xFF 8) := by decide

theorem test_decode_setBlocklen_word : decode 0x055000000200FF08#64 = .ok (.sendCmd 0x50 512 0xFF 8) := by decide

theorem test_decode_reserved_opcodes :
    decode 0#64 = .error (.reservedOpcode 0x00) ∧ decode 0x0700000000000000#64 = .error (.reservedOpcode 0x07) ∧
      decode 0xFF00000000000000#64 = .error (.reservedOpcode 0xFF) := by decide

theorem test_decode_reserved_bits :
    decode 0x0100000000000001#64 = .error (.reservedBits 0x01) ∧
      decode 0x0280000000000000#64 = .error (.reservedBits 0x02) ∧
      decode 0x0300000001000000#64 = .error (.reservedBits 0x03) ∧
      decode 0x04000000000001A5#64 = .error (.reservedBits 0x04) ∧
      decode 0x0600000000000001#64 = .error (.reservedBits 0x06) := by decide

theorem test_decode_all_ones_sendCmd :
    decode 0x05FFFFFFFFFFFFFF#64 = .ok (.sendCmd 0xFF 0xFFFFFFFF 0xFF 0xFF) := by decide

theorem test_decodeTableWord :
    decodeTableWord 64 0x04000000000000A5 = some (.xchg 0xA5) ∧ decodeTableWord 64 0x0700000000000000 = none := by decide

theorem test_encode_words :
    encode (.xchg 0xA5) = 0x04000000000000A5#64 ∧ encode (.sendCmd 0x40 0x12345678 0x95 0) = 0x0540123456789500#64 ∧
      encode (.setBlocklen 512) = 0x055000000200FF08#64 ∧ encode .fill = encode (.xchg 0xFF) := by decide

theorem test_assemble_line : assembleLine "SEND_CMD 0x40, 0, 0x95, 8" = some 0x0540000000009508#64 := by decide

theorem test_assemble_too_wide : assembleLine "XCHG 0x100" = none ∧ assembleLine "XCHG 255" = some 0x04000000000000FF#64 := by
  decide

/-! ### The scanner and the frame: vectors W1 to W4, S-1, S-9, F-4, F-6 -/

theorem test_scan_vectors :
    scan [0xFF, 0x01, 0xFF, 0xFF] = 0x01 ∧ scan [0xFF, 0x01, 0x05, 0xFF] = 0x05 ∧ scan [0xFF, 0xFF, 0xFF, 0xFF] = 0xFF ∧
      scan [] = 0xFF ∧ scan [0x00, 0xFF, 0xFF, 0x3F] = 0x3F := by decide

theorem test_frame_vectors :
    Command.frame ⟨0x51, 0x12345678, 0x00, 8⟩ = [0x51, 0x12, 0x34, 0x56, 0x78, 0x00] ∧
      Command.frame ⟨0x00, 0x80000001, 0x7F, 8⟩ = [0x00, 0x80, 0x00, 0x00, 0x01, 0x7F] := by decide

/-! ### One step at a time -/

/-- The default configuration with its two OPEN parameters given. -/
def cfg : Config := { tSettle := 0, diagEnable := false }

/-- A block that has run INIT_BUS, in an environment that completes every bit at once and holds MISO at 1. -/
def ready : State :=
  { State.reset with
    csN := .driven true, sclk := .driven false, mosi := .driven true, configured := true, cfg := cfg,
    miso := ⟨[], some true⟩, xferDone := ⟨[], some true⟩ }

/-- A block that has just accepted the word `w`. -/
def holding (w : Request) (s : State) : State := { s with ctl := .busy (opcodeField w), req := w }

/-- The same block at a place of its request's sequence. -/
def standing (g : Seg) (s : State) : State := { s with point := .within g }

/-- The state a step answers. -/
def answer (r : Result) : State :=
  match r with
  | .next t => t
  | .refused _ => State.reset

theorem test_initBus_writes_csN_first :
    (answer (exec .initBus State.reset)).csN = .driven true ∧ (answer (exec .initBus State.reset)).sclk = .z := by decide

theorem test_select_drives_csN_low : (answer (exec .select ready)).csN = .driven false := by decide

theorem test_select_before_initBus :
    (answer (exec .select State.reset)).resp = 0x0200 ∧ (answer (exec .select State.reset)).trace = [.complete 0x0200, .reset] := by
  decide

theorem test_deselect_drives_csN_high :
    (answer (exec .deselect { ready with csN := .driven false })).csN = .driven true := by decide

theorem test_xchg_drives_bit_seven :
    (answer (exec (.xchg 0xA5) ready)).mosi = .driven true ∧ (answer (exec (.xchg 0x7F) ready)).mosi = .driven false := by
  decide

theorem test_xchg_sample_lands_in_its_bit :
    (answer (exec (.xchg 0) (standing (.xfer .sample .raw)
      { ready with bitIdx := 6, rxSr := 0x80, miso := ⟨[true], none⟩ }))).rxSr = 0xC0 := by decide

theorem test_fill_sends_ones :
    (answer (exec .fill ready)).txSr = 0xFF ∧ (answer (exec .fill ready)).mosi = .driven true := by decide

theorem test_sendCmd_latches_its_fields :
    (answer (exec (.sendCmd 0x51 0x12345678 0x01 0x08) ready)).chan.command = ⟨0x51, 0x12345678, 0x01, 0x08⟩ ∧
      (answer (exec (.sendCmd 0x51 0x12345678 0x01 0x08) ready)).csN = .driven false := by decide

theorem test_sendCmd_scans_its_window_byte :
    (answer (exec (.sendCmd 0x40 0 0x95 2) (standing (.fallen (.window .host))
      { ready with rxSr := 0x05, chan := { Channel.reset with winLeft := 2, scanLast := 0x01 } }))).chan.scanLast = 0x05 := by
  decide

theorem test_goIdleState_command :
    (answer (exec .goIdleState ready)).chan.command = ⟨0x40, 0, 0x95, 8⟩ := by decide

theorem test_sendOpCond_command :
    (answer (exec .sendOpCond ready)).chan.command = ⟨0x41, 0, 0xFF, 8⟩ := by decide

theorem test_setBlocklen_command :
    (answer (exec (.setBlocklen 0x200) ready)).chan.command = ⟨0x50, 0x200, 0xFF, 8⟩ := by decide

theorem test_cardInit_deselects :
    (answer (exec .cardInit { ready with csN := .driven false })).csN = .driven true ∧
      (answer (exec .cardInit ready)).initPhase = .prefixClocking := by decide

/-- I-3's end: the tenth attempt has failed and backed off. -/
theorem test_cardInit_gives_up :
    (answer (exec .cardInit (standing .idleBackedOff { ready with initPhase := .idleBackoff, attempt := 10 }))).resp =
      0x00FF ∧
    (answer (exec .cardInit (standing .idleBackedOff
      { ready with initPhase := .idleBackoff, attempt := 10 }))).status = 0x0A8A := by decide

theorem test_withFetchWord_runs_next :
    (answer (step (State.reset.withFetchWord 64 0x0100000000000000))).csN = .driven true := by decide

/-- D-4: ILLEGAL wins over NOT_CONFIGURED. -/
theorem test_illegal_wins : (answer (step (holding 0x0100000000000001 State.reset))).resp = 0x0100 := by decide

/-- D-10's last step and its STATUS word. -/
theorem test_status_after_initBus :
    (answer (exec .initBus (standing .initDone { ready with configured := false }))).status = 0x000A := by decide

/-! ### Witnesses: each obligation's hypotheses are met together -/

/-- A block running `SEND_CMD 0x40, 0, 0x95, 8`. -/
def commanding : State :=
  { holding 0x0540000000009508 ready with
    csN := .driven false, chan := { Channel.reset with fCmd := 0x40, fCrc := 0x95, fWin := 8, winLeft := 8, scanLast := 0xFF } }

/-- A block running CARD_INIT. -/
def initialising : State := { holding 0x0600000000000000 ready with initPhase := .idleCmd, attempt := 1 }

/-- The environment of a hang. -/
def stuck (s : State) : State := { s with xferDone := ⟨[false], some false⟩ }

theorem witness_DecodeOfEncodeIsTheExpansion : (Instr.sendCmd 0xFF 0xFFFFFFFF 0xFF 0xFF).wellFormed = true := by decide

theorem witness_EncodeOfDecodeIsTheWord :
    decode 0x05FFFFFFFFFFFFFF#64 = .ok (.sendCmd 0xFF 0xFFFFFFFF 0xFF 0xFF) ∧ decode 0x0400000000000000#64 = .ok (.xchg 0) := by
  decide

theorem witness_DecoderAgreesWithTheOpcodeTable :
    let r : TableRow := ⟨0xFFFFFFFFFFFFFF00#64, 0x0400000000000000#64⟩
    r ∈ decoderTable ∧ r.accepts 0x04000000000000FF#64 = true ∧ decode 0x04000000000000FF#64 = .ok (.xchg 0xFF) := by decide

theorem witness_FormatsNAndXReserveTheirBits :
    ((0x01#8, Instr.initBus) ∈ [(0x01#8, Instr.initBus), (0x02#8, Instr.select), (0x03#8, Instr.deselect),
        (0x06#8, Instr.cardInit)] ∧
      (0x0100000000000000#64).extractLsb' 56 8 = 0x01#8 ∧ (0x0100000000000000#64).extractLsb' 0 56 = 0#56 ∧
      (0x0180000000000000#64).extractLsb' 56 8 = 0x01#8 ∧ (0x0180000000000000#64).extractLsb' 0 56 ≠ 0#56) ∧
    ((0x04000000000000FF#64).extractLsb' 56 8 = 0x04#8 ∧ (0x04000000000000FF#64).extractLsb' 8 48 = 0#48 ∧
      (0x0400000000000100#64).extractLsb' 56 8 = 0x04#8 ∧ (0x0400000000000100#64).extractLsb' 8 48 ≠ 0#48) := by decide

theorem witness_ReservedOpcodesAndSendCmdWords :
    ((0x0000000000000000#64).extractLsb' 56 8).toNat = 0 ∧ 7 ≤ ((0x0700000000000000#64).extractLsb' 56 8).toNat ∧
      7 ≤ ((0xFF00000000000000#64).extractLsb' 56 8).toNat ∧ (0x0500000000000000#64).extractLsb' 56 8 = 0x05#8 := by decide

theorem witness_AssemblerChecksOperandWidths :
    assemble "XCHG" [255] = some (.xchg 0xFF) ∧ assemble "XCHG" [256] = none ∧
      assemble "SET_BLOCKLEN" [4294967295] = some (.setBlocklen 0xFFFFFFFF) ∧ assemble "SET_BLOCKLEN" [4294967296] = none ∧
      assemble "SEND_CMD" [255, 4294967295, 255, 255] = some (.sendCmd 0xFF 0xFFFFFFFF 0xFF 0xFF) ∧
      assemble "SEND_CMD" [0, 0, 0, 256] = none := by decide

theorem witness_StepRunsTheDecodedRequest :
    (holding 0x04000000000000A5 ready).resetLine = false ∧ (holding 0x04000000000000A5 ready).ctl = .busy 0x04#8 ∧
      decode (holding 0x04000000000000A5 ready).req = .ok (.xchg 0xA5) ∧
      decodeTableWord 64 0x04000000000000A5 = some (.xchg 0xA5) := by decide

theorem witness_AcceptanceOnlyWhileIdle :
    (let s := { ready with host := [0x0300000000000000] };
      s.resetLine = false ∧ s.ctl = .idle ∧ s.host = [0x0300000000000000]) ∧
    (∃ t, commanding.resetLine = false ∧ commanding.ctl = .busy 0x05#8 ∧ step commanding = .next t) ∧
    (ready.resetLine = false ∧ ready.ctl = .idle ∧ ready.host = []) :=
  ⟨by decide, ⟨_, by decide, by decide, rfl⟩, by decide⟩

theorem witness_CompletionWritesTheResponse :
    (∃ t, HandshakeInv commanding ∧ commanding.resetLine = false ∧ commanding.ctl = .busy 0x05#8 ∧
      step commanding = .next t) ∧
    (∃ t, HandshakeInv (standing (.ended .host) commanding) ∧ (standing (.ended .host) commanding).resetLine = false ∧
      (standing (.ended .host) commanding).ctl = .busy 0x05#8 ∧ step (standing (.ended .host) commanding) = .next t) := by
  refine ⟨⟨_, ⟨by decide, by decide, trivial⟩, by decide, by decide, rfl⟩,
    ⟨_, ⟨by decide, by decide, rfl, .sendCmd 0x40 0 0x95 8, by decide⟩, by decide, by decide, rfl⟩⟩

theorem witness_ResetEventClearsTheBlock : (State.assertReset commanding).resetLine = true := by decide

theorem witness_IllegalOnlyByAdmission :
    let s := holding 0x0700000000000000 ready
    s.resetLine = false ∧ s.ctl = .busy 0x07#8 ∧ s.point = .start ∧ decode s.req = .error (.reservedOpcode 0x07) ∧
      HandshakeInv s ∧
      ∃ t, step s = .next t ∧ t.trace = .complete 0x0100 :: s.trace ∧ (0x0100#16).extractLsb' 8 8 = 0x01#8 :=
  ⟨by decide, by decide, by decide, by decide, ⟨by decide, by decide, trivial⟩, _, rfl, by decide, by decide⟩

theorem witness_NotConfiguredOnlyByAdmission :
    let s := holding 0x0200000000000000 State.reset
    Instr.select.opcode ≠ 0x01#8 ∧ s.point = .start ∧ s.configured = false ∧ HandshakeInv s ∧ s.resetLine = false ∧
      s.ctl = .busy 0x02#8 ∧
      ∃ t, step s = .next t ∧ t.trace = .complete 0x0200 :: s.trace ∧ (0x0200#16).extractLsb' 8 8 = 0x02#8 :=
  ⟨by decide, by decide, by decide, ⟨by decide, by decide, trivial⟩, by decide, by decide, _, rfl, by decide, by decide⟩

theorem witness_InitBusRuns : State.reset.point = .start := by decide

theorem witness_SelectAndDeselectRun : ready.point = .start ∧ ready.configured = true := by decide

theorem witness_BusRequestsFrame :
    (∃ t, Instr.initBus ∈ [Instr.initBus, .select, .deselect] ∧ StandsIn .initBus (standing .initMosi ready) ∧
      exec .initBus (standing .initMosi ready) = .next t) ∧
    (∃ t, Instr.deselect ∈ [Instr.initBus, .select, .deselect] ∧ StandsIn .deselect (standing .acknowledge ready) ∧
      exec .deselect (standing .acknowledge ready) = .next t) :=
  ⟨⟨_, by decide, rfl, rfl⟩, ⟨_, by decide, Or.inr rfl, rfl⟩⟩

theorem witness_XchgBegins :
    Instr.fill.expand = .xchg 0xFF ∧ (Instr.xchg 0).expand = .xchg 0 ∧ ready.point = .start ∧ ready.configured = true := by
  decide

/-- X-7's line (0, 0, then 1), with no limit and just below a limit of 3. -/
theorem witness_PulseOfABit :
    (let s := standing (.xfer .rise .raw) ready;
      s.point = .within (.xfer .rise .raw) ∧ DoneAtOnce s) ∧
    (let s := { standing (.xfer .poll .raw) ready with xferDone := ⟨[false, false, true], some true⟩ };
      s.point = .within (.xfer .poll .raw) ∧ (∀ k, k < 2 → s.doneAfter k = false) ∧ s.doneAfter 2 = true ∧
        ∀ n, s.cfg.pollLimit = some n → 2 < n) ∧
    (let s := { standing (.xfer .poll .raw) ready with
        xferDone := ⟨[false, false, true], some true⟩, cfg := { cfg with pollLimit := some 3 } };
      s.point = .within (.xfer .poll .raw) ∧ (∀ k, k < 2 → s.doneAfter k = false) ∧ s.doneAfter 2 = true ∧
        ∀ n, s.cfg.pollLimit = some n → 2 < n) ∧
    (standing (.xfer .sample .raw) ready).point = .within (.xfer .sample .raw) ∧
    (standing (.xfer .fall .raw) ready).point = .within (.xfer .fall .raw) :=
  ⟨⟨rfl, rfl⟩, ⟨rfl, by decide, by decide, fun _ h => nomatch h⟩,
    ⟨rfl, by decide, by decide, fun _ h => Option.some.inj h ▸ by decide⟩, rfl, rfl⟩

theorem witness_XchgRunsToItsResponse :
    Instr.fill.expand = .xchg 0xFF ∧ ready.point = .start ∧ ready.configured = true ∧ DoneAtOnce ready ∧ MisoGiven ready :=
  ⟨rfl, rfl, rfl, rfl, show ready.miso.steady ≠ none by decide⟩

theorem witness_XchgFrame :
    ∃ t, Instr.fill.opcode = 0x04#8 ∧ StandsIn .fill (standing (.fallen .raw) ready) ∧
      exec .fill (standing (.fallen .raw) ready) = .next t :=
  ⟨_, rfl, rfl, rfl⟩

theorem witness_UnboundedPoll :
    ready.cfg.pollLimit = none ∧ (standing (.xfer .poll .raw) ready).point = .within (.xfer .poll .raw) ∧
      (standing (.xfer .repoll .raw) ready).point = .within (.xfer .repoll .raw) :=
  ⟨rfl, rfl, rfl⟩

theorem witness_HangNeverCompletes :
    let s := stuck (standing (.xfer .poll (.frame .host)) commanding)
    s.resetLine = false ∧ s.ctl = .busy 0x05#8 ∧ decode s.req = .ok (.sendCmd 0x40 0 0x95 8) ∧ s.cfg.pollLimit = none ∧
      DoneNever s ∧ (s.point = .within (.xfer .poll (.frame .host)) ∨
        (s.point = .within (.xfer .repoll (.frame .host)) ∧ s.eng = .poll)) :=
  ⟨rfl, by decide, by decide, rfl, doneNever_of_silent (by decide) rfl, Or.inl rfl⟩

/-- A line that reads 1 only after the limit, and the limit's polls. -/
theorem witness_PollLimitEndsTheWait :
    (let s := { standing (.xfer .poll .raw) ready with
        xferDone := ⟨[false], some true⟩, cfg := { cfg with pollLimit := some 1 } };
      s.cfg.pollLimit = some 1 ∧ 1 ≠ 0 ∧ (∀ m, m < 1 → s.doneAfter m = false) ∧ s.point = .within (.xfer .poll .raw)) ∧
    (let s := { standing (.xfer .poll .raw) ready with
        xferDone := ⟨[false, false, false], some true⟩, cfg := { cfg with pollLimit := some 3 } };
      s.cfg.pollLimit = some 3 ∧ 3 ≠ 0 ∧ (∀ m, m < 3 → s.doneAfter m = false) ∧ s.point = .within (.xfer .poll .raw)) ∧
    (let s := { standing (.xfer .repoll .raw) ready with pollCnt := 1, cfg := { cfg with pollLimit := some 3 } };
      s.cfg.pollLimit = some 3 ∧ s.point = .within (.xfer .repoll .raw) ∧ s.pollCnt + 1 ≠ 3) ∧
    (let s := { standing (.xfer .repoll .raw) ready with pollCnt := 2, cfg := { cfg with pollLimit := some 3 } };
      s.cfg.pollLimit = some 3 ∧ s.point = .within (.xfer .repoll .raw) ∧ s.pollCnt + 1 = 3) := by decide

theorem witness_TimeoutOfXchgAndSendCmd :
    (standing (.timedOut .raw) ready).point = .within (.timedOut .raw) ∧
      Site.window .host ∈ [Site.frame .host, .window .host] ∧
      (standing (.timedOut (.window .host)) ready).point = .within (.timedOut (.window .host)) := by decide

theorem witness_TimeoutEndsCardInit :
    (standing (.timedOut .prefixByte) initialising).point = .within (.timedOut .prefixByte) ∧
      Caller.opcond ≠ .host ∧ Site.frame .opcond ∈ [Site.frame .opcond, .window .opcond] ∧
      (standing (.timedOut (.frame .opcond)) initialising).point = .within (.timedOut (.frame .opcond)) ∧
      initialising.cfg.pollLimit = none ∧
      ∃ t, exec .cardInit (stuck (standing (.xfer .repoll .prefixByte) initialising)) = .next t :=
  ⟨rfl, by decide, by decide, rfl, rfl, _, rfl⟩

theorem witness_StepKeepsHandshakeInv : ∃ t, HandshakeInv commanding ∧ step commanding = .next t :=
  ⟨_, ⟨by decide, by decide, trivial⟩, rfl⟩

/-- A SEND_CMD between its chip-select and its first frame byte meets all four invariants. -/
theorem witness_StepKeepsBusInv :
    ∃ t, HandshakeInv (standing (.selected .host) commanding) ∧ BusInv (standing (.selected .host) commanding) ∧
      step (standing (.selected .host) commanding) = .next t :=
  ⟨_, ⟨by decide, by decide, rfl, .sendCmd 0x40 0 0x95 8, by decide⟩,
    ⟨fun _ => ⟨by decide, by decide, by decide⟩, rfl, rfl, rfl, rfl⟩, rfl⟩

theorem witness_StepKeepsTransferInv :
    ∃ t, commanding.cfg.valid = true ∧ TransferInv (standing (.selected .host) commanding) ∧
      step (standing (.selected .host) commanding) = .next t :=
  ⟨_, by decide, show commanding.chan.command = Caller.command commanding .host by decide, rfl⟩

theorem witness_StepKeepsInitInv :
    ∃ t, initialising.cfg.valid = true ∧ HandshakeInv (standing (.selected .idle) initialising) ∧
      InitInv (standing (.selected .idle) initialising) ∧ step (standing (.selected .idle) initialising) = .next t :=
  ⟨_, by decide, ⟨by decide, by decide, rfl, .cardInit, by decide⟩,
    ⟨fun h => absurd h (by decide), rfl, by decide, by decide⟩, rfl⟩

theorem witness_OneEventPerStep : ∃ t, step commanding = .next t := ⟨_, rfl⟩

theorem witness_OutputsChangeOnlyByPinWrite :
    (∃ t, ready.resetLine = false ∧ step (holding 0x0200000000000000 ready) = .next t ∧
      t.trace = .pin .csN false :: (holding 0x0200000000000000 ready).trace) ∧
    (∃ t, (State.assertReset ready).resetLine = true ∧ step (State.assertReset ready) = .next t) ∧
    ready.point = .start :=
  ⟨⟨_, rfl, rfl, by decide⟩, ⟨_, rfl, rfl⟩, rfl⟩

theorem witness_ConfiguredIsWrittenOnlyByInitBus :
    (let s := standing .initDone (holding 0x0100000000000000 { ready with configured := false });
      ∃ t, HandshakeInv s ∧ step s = .next t ∧ t.configured ≠ s.configured) ∧
    (let s := State.assertReset ready;
      ∃ t, HandshakeInv s ∧ step s = .next t ∧ t.configured ≠ s.configured) :=
  ⟨⟨_, ⟨by decide, by decide, rfl, .initBus, by decide⟩, rfl, by decide⟩, ⟨_, rfl, rfl, by decide⟩⟩

theorem witness_OnlyCardInitWritesItsRegisters :
    ∃ t, HandshakeInv commanding ∧ commanding.resetLine = false ∧ step commanding = .next t ∧
      commanding.ctl ≠ .busy 0x06#8 :=
  ⟨_, ⟨by decide, by decide, trivial⟩, rfl, rfl, by decide⟩

theorem witness_CommandsEndDeselected :
    let s := standing (.ended .host) { commanding with csN := .driven true }
    ∃ t, HandshakeInv s ∧ BusInv s ∧ s.resetLine = false ∧ s.ctl = .busy 0x05#8 ∧ (0x05#8 = 0x05#8 ∨ 0x05#8 = 0x06#8) ∧
      s.point = .within (.ended .host) ∧ step s = .next t ∧ t.ctl = .idle :=
  ⟨_, ⟨by decide, by decide, rfl, .sendCmd 0x40 0 0x95 8, by decide⟩,
    ⟨fun _ => ⟨by decide, by decide, by decide⟩, rfl, rfl, rfl, rfl⟩, rfl, by decide, Or.inl rfl, rfl, rfl, by decide⟩

theorem witness_EveryRequestCompletes :
    (commanding.cfg.valid = true ∧ TransferInv commanding ∧ commanding.resetLine = false ∧ commanding.ctl = .busy 0x05#8 ∧
      DoneLive commanding) ∧
    (let s := { stuck commanding with cfg := { cfg with pollLimit := some 1 } };
      s.cfg.valid = true ∧ TransferInv s ∧ s.resetLine = false ∧ s.ctl = .busy 0x05#8 ∧ s.cfg.pollLimit ≠ none) :=
  ⟨⟨by decide, trivial, rfl, by decide, doneLive_of_settled rfl⟩, ⟨by decide, trivial, rfl, by decide, by decide⟩⟩

theorem witness_DiagnosticsDoNotSteer :
    let s := holding 0x0600000000000000 ready
    s.ctl = .busy Instr.cardInit.opcode ∧ s.point = .start ∧ s.configured = true ∧ DoneAtOnce s ∧ MisoGiven s ∧
      s.cfg.valid = true :=
  ⟨by decide, rfl, rfl, rfl, show ready.miso.steady ≠ none by decide, by decide⟩

theorem witness_CardInitRunsItsPseudocode :
    ready.point = .start ∧ ready.configured = true ∧ DoneAtOnce ready ∧ MisoGiven ready ∧ ready.cfg.valid = true :=
  ⟨rfl, rfl, rfl, show ready.miso.steady ≠ none by decide, by decide⟩

theorem witness_CardInitCounts :
    let s := holding 0x0600000000000000 ready
    s.ctl = .busy 0x06#8 ∧ s.point = .start ∧ s.configured = true ∧ DoneAtOnce s ∧ MisoGiven s ∧ s.cfg.valid = true :=
  witness_DiagnosticsDoNotSteer

theorem witness_SilentCardExhaustsTheIdleLoop :
    ready.point = .start ∧ ready.configured = true ∧ DoneAtOnce ready ∧ ready.miso = ⟨[], some true⟩ ∧
      ready.cfg.valid = true :=
  ⟨rfl, rfl, rfl, rfl, by decide⟩

theorem witness_ScannerRegister :
    (let s := standing (.fallen (.frame .idle)) { commanding with chan := { Channel.reset with frameIdx := 5 } };
      s.point = .within (.fallen (.frame .idle)) ∧ s.bitIdx = 0 ∧ s.chan.frameIdx = 5) ∧
    (let s := standing (.fallen (.window .host)) commanding;
      s.cfg.diagEnable = false ∧ s.point = .within (.fallen (.window .host)) ∧ s.bitIdx = 0) ∧
    (standing (.mirrored .host) commanding).point = .within (.mirrored .host) ∧
    (let s := standing (.released .host) commanding;
      s.cfg.diagEnable = false ∧ s.point = .within (.released .host)) ∧
    (standing (.ended .host) commanding).point = .within (.ended .host) := by decide

theorem witness_SendCmdBegins :
    Instr.goIdleState.expand = .sendCmd 0x40 0 0x95 8 ∧ ready.point = .start ∧ ready.configured = true ∧
      ready.cfg.diagEnable = false ∧
      (let s := { ready with cfg := { cfg with diagEnable := true } };
        s.point = .start ∧ s.configured = true ∧ s.cfg.diagEnable = true) := by decide

theorem witness_SendCmdRunsToItsResponse :
    (Instr.sendCmd 0x40 0 0x95 0).expand = .sendCmd 0x40 0 0x95 0 ∧
      (Instr.sendCmd 0xFF 0xFFFFFFFF 0xFF 0xFF).expand = .sendCmd 0xFF 0xFFFFFFFF 0xFF 0xFF ∧
      Instr.sendOpCond.expand = .sendCmd 0x41 0 0xFF 8 ∧ ready.point = .start ∧ ready.configured = true ∧
      DoneAtOnce ready ∧ MisoGiven ready :=
  ⟨rfl, rfl, rfl, rfl, rfl, rfl, show ready.miso.steady ≠ none by decide⟩

theorem witness_SendCmdBytesOnTheWire :
    Instr.goIdleState.expand = .sendCmd 0x40 0 0x95 8 ∧ ready.point = .start ∧ ready.configured = true ∧
      DoneAtOnce ready ∧ MisoGiven ready :=
  ⟨rfl, rfl, rfl, rfl, show ready.miso.steady ≠ none by decide⟩

theorem witness_EmptyWindowReturnsFiller :
    ready.point = .start ∧ ready.configured = true ∧ DoneAtOnce ready ∧ MisoGiven ready ∧ ready.cfg.diagEnable = false :=
  ⟨rfl, rfl, rfl, show ready.miso.steady ≠ none by decide, rfl⟩

/-- With a poll limit of 1 and a line that never completes, a SEND_CMD ends in its first bit (C-5's mechanism). -/
theorem witness_ChipSelectOncePerCommand :
    let s := { stuck (holding 0x0540000000009508 ready) with cfg := { cfg with pollLimit := some 1 } }
    s.resetLine = false ∧ s.host = [] ∧ s.ctl = .busy 0x05#8 ∧ s.point = .start ∧ s.configured = true ∧
      decode s.req = .ok (.sendCmd 0x40 0 0x95 8) ∧ (Instr.sendCmd 0x40 0 0x95 8).opcode = 0x05#8 ∧
      ∃ t, run 8 s = .next t ∧ t.ctl = .idle :=
  ⟨rfl, rfl, by decide, rfl, rfl, by decide, rfl, _, rfl, by decide⟩

theorem witness_SendCmdFrame :
    ∃ t, (Instr.setBlocklen 512).opcode = 0x05#8 ∧ StandsIn (.setBlocklen 512) (standing (.aborted .host) commanding) ∧
      exec (.setBlocklen 512) (standing (.aborted .host) commanding) = .next t :=
  ⟨_, rfl, rfl, rfl⟩

theorem witness_CardInitBegins : ready.point = .start ∧ ready.configured = true ∧ ready.cfg.prefixBytes ≠ 0 := by decide

theorem witness_RetryResultsDecide :
    (let s := standing (.released .idle) { initialising with chan := { Channel.reset with scanLast := 0x01 } };
      s.cfg.diagEnable = false ∧ s.point = .within (.released .idle) ∧ s.chan.scanLast = 0x01#8) ∧
    (let s := standing (.ended .idle)
        { initialising with cfg := { cfg with diagEnable := true }, chan := { Channel.reset with scanLast := 0x00 } };
      s.point = .within (.ended .idle) ∧ s.chan.scanLast ≠ 0x01#8) ∧
    (let s := standing (.released .opcond) { initialising with chan := { Channel.reset with scanLast := 0x01 } };
      s.cfg.diagEnable = false ∧ s.point = .within (.released .opcond) ∧ s.chan.scanLast ≠ 0x00#8) ∧
    (let s := standing (.ended .opcond)
        { initialising with cfg := { cfg with diagEnable := true }, chan := { Channel.reset with scanLast := 0x00 } };
      s.point = .within (.ended .opcond) ∧ s.chan.scanLast = 0x00#8) := by decide

theorem witness_RetryLimitsEndTheLoops :
    (let s := standing .idleBackedOff { initialising with attempt := 10 };
      s.point = .within .idleBackedOff ∧ s.attempt = s.cfg.idleRetryLimit) ∧
    (let s := standing .idleBackedOff { initialising with attempt := 9 };
      s.point = .within .idleBackedOff ∧ s.attempt ≠ s.cfg.idleRetryLimit) ∧
    (let s := standing .opcondBackedOff { initialising with attempt := 10 };
      s.point = .within .opcondBackedOff ∧ s.attempt = s.cfg.opcondRetryLimit) ∧
    (let s := standing .opcondBackedOff { initialising with attempt := 9 };
      s.point = .within .opcondBackedOff ∧ s.attempt ≠ s.cfg.opcondRetryLimit) := by decide

theorem witness_BlocklenResultDecides :
    (let s := standing (.released .blocklen) { initialising with chan := { Channel.reset with scanLast := 0x04 } };
      s.cfg.diagEnable = false ∧ s.point = .within (.released .blocklen) ∧ s.cfg.blocklenCheck = false) ∧
    (let s := standing (.released .blocklen)
        { initialising with
          cfg := { cfg with blocklenCheck := true }, chan := { Channel.reset with scanLast := 0x04 } };
      s.cfg.diagEnable = false ∧ s.point = .within (.released .blocklen) ∧ s.cfg.blocklenCheck = true ∧
        s.chan.scanLast ≠ 0x00#8) ∧
    (let s := standing (.ended .blocklen)
        { initialising with cfg := { cfg with diagEnable := true, blocklenCheck := true } };
      s.cfg.diagEnable = true ∧ s.point = .within (.ended .blocklen)) ∧
    (let s := standing (.reported 0x04) { initialising with cfg := { cfg with blocklenCheck := true } };
      s.point = .within (.reported 0x04) ∧ s.cfg.blocklenCheck = true ∧ 0x04#8 ≠ 0x00#8) := by decide

theorem witness_CardInitFrame :
    ∃ t, StandsIn .cardInit (standing .abandoned initialising) ∧ exec .cardInit (standing .abandoned initialising) = .next t ∧
      StandsIn .cardInit (standing .prefixStart initialising) :=
  ⟨_, rfl, rfl, rfl⟩

theorem witness_XchgIsOneByteOnTheWire :
    let s := accept 0x04000000000000A5 ready
    (Instr.xchg 0xA5).expand = .xchg 0xA5 ∧ s.ctl = .busy (Instr.xchg 0xA5).opcode ∧ s.point = .start ∧
      s.configured = true ∧ s.trace = .accept 0x04000000000000A5 :: ready.trace ∧ DoneAtOnce s ∧ MisoGiven s :=
  ⟨rfl, by decide, rfl, rfl, rfl, rfl, show ready.miso.steady ≠ none by decide⟩

/-- X-9 with a limit of 1: the second clause's hypotheses, ending with TIMEOUT. -/
theorem witness_XchgIsOneByteOnTheWire_timeout :
    let s := { stuck (accept 0x0400000000000055 ready) with cfg := { cfg with pollLimit := some 1 } }
    s.resetLine = false ∧ s.host = [] ∧ s.ctl = .busy 0x04#8 ∧ s.point = .start ∧ s.configured = true ∧
      decode s.req = .ok (.xchg 0x55) ∧ s.trace = .accept s.req :: ready.trace ∧
      ∃ t, run 6 s = .next t ∧ t.ctl = .idle ∧ t.resp = 0x0300#16 :=
  ⟨rfl, rfl, by decide, rfl, rfl, by decide, rfl, _, rfl, by decide, by decide⟩

/-- The second clause's hypotheses, ending with status OK. -/
theorem witness_XchgIsOneByteOnTheWire_ok :
    let s := accept 0x0400000000000055 ready
    s.resetLine = false ∧ s.host = [] ∧ s.ctl = .busy 0x04#8 ∧ s.point = .start ∧ s.configured = true ∧
      decode s.req = .ok (.xchg 0x55) ∧ s.trace = .accept s.req :: ready.trace ∧
      ∃ t, run 49 s = .next t ∧ t.ctl = .idle ∧ t.resp.extractLsb' 8 8 = 0x00#8 :=
  ⟨rfl, rfl, by decide, rfl, rfl, by decide, rfl, _, rfl, by decide, by decide⟩

/-- R69: the bits of an exchange that timed out do not mix with the next exchange's. -/
theorem test_byteView_after_timeout :
    byteView [] none ([.pin .mosi true, .pin .sclk true, .delay .settle, .sample .xferDone true, .sample .miso true,
        .pin .sclk false, .pin .mosi false, .pin .sclk true, .delay .settle, .sample .xferDone false, .pin .sclk false,
        .complete 0x0300, .accept 0x040000000000003C] ++ exchangeEvents 0x3C 0x81) = [.xchg 0x3C 0x81] := by decide

end Sys2Proof.Tests
end

section
/-! One event per step (00_scope.md R9, R17; 20_memory.md R68): every operation of the machine leaves the configuration and puts
one event on the history. The operations are taken from the primitives up, in the order of the model's files. -/

namespace Sys2Proof.Machine

/-- `t` has the configuration of `s` and a history one event longer. It speaks of no other field, so it also holds from `s` with
any registers written before the primitive. -/
def AddsOneEvent (s t : State) : Prop := t.cfg = s.cfg ∧ ∃ e, t.trace = e :: s.trace

theorem AddsOneEvent.goto {s t : State} (h : AddsOneEvent s t) (g : Seg) : AddsOneEvent s (t.goto g) := h

/-! ### The primitives and the handshake -/

theorem record_addsOneEvent (e : Event) (s : State) : AddsOneEvent s (s.record e) := ⟨record_cfg e s, e, record_trace e s⟩

theorem pinWrite_addsOneEvent (p : OutPin) (v : Bool) (s : State) : AddsOneEvent s (pinWrite p v s) :=
  ⟨pinWrite_cfg p v s, .pin p v, pinWrite_trace p v s⟩

theorem pinRead_addsOneEvent (p : InPin) (s : State) : AddsOneEvent s (pinRead p s) :=
  ⟨pinRead_cfg p s, .sample p (inputLevel p s), pinRead_trace p s⟩

theorem delay_addsOneEvent (k : Wait) (s : State) : AddsOneEvent s (delay k s) := record_addsOneEvent (.delay k) s

/-- An enabled Emit is the step's one event; a disabled one leaves it to what follows. -/
theorem emitThen_addsOneEvent (d : Diag) (g : Seg) {k : State → State} {s : State} (hk : AddsOneEvent s (k s)) :
    AddsOneEvent s (emitThen d g k s) := by
  cases hd : s.cfg.diagEnable with
  | true =>
    rw [emitThen_on hd]
    exact (record_addsOneEvent _ s).goto g
  | false =>
    rw [emitThen_off hd]
    exact hk

theorem accept_addsOneEvent (w : Request) (s : State) : AddsOneEvent s (accept w s) :=
  ⟨accept_cfg w s, .accept w, accept_trace w s⟩

theorem complete_addsOneEvent (st : Status) (data : Byte) (s : State) : AddsOneEvent s (complete st data s) :=
  ⟨complete_cfg st data s, .complete (response st data), complete_trace st data s⟩

theorem conclude_addsOneEvent (st : Status) (o : InitOutcome) (s : State) : AddsOneEvent s (conclude st o s) :=
  ⟨conclude_cfg st o s, .complete (response st o.byte), conclude_trace st o s⟩

theorem raise_addsOneEvent (e : Error) (s : State) : AddsOneEvent s (raise e s) := by
  cases e with
  | illegal => exact complete_addsOneEvent .illegal 0 s
  | notConfigured => exact complete_addsOneEvent .notConfigured 0 s
  | timeout site =>
    cases site with
    | raw => exact complete_addsOneEvent .timeout 0 s
    | prefixByte => exact (pinWrite_addsOneEvent .csN true s).goto .abandoned
    | frame c => exact (pinWrite_addsOneEvent .csN true s).goto (.aborted c)
    | window c => exact (pinWrite_addsOneEvent .csN true s).goto (.aborted c)

theorem reraise_addsOneEvent (c : Caller) (s : State) : AddsOneEvent s (reraise c s) := by
  cases c with
  | host => exact complete_addsOneEvent .timeout 0 (forgetChannel s)
  | idle => exact (pinWrite_addsOneEvent .csN true (forgetChannel s)).goto .abandoned
  | opcond => exact (pinWrite_addsOneEvent .csN true (forgetChannel s)).goto .abandoned
  | blocklen => exact (pinWrite_addsOneEvent .csN true (forgetChannel s)).goto .abandoned

theorem resetEvent_addsOneEvent (s : State) : AddsOneEvent s (resetEvent s) := ⟨rfl, .reset, rfl⟩

/-! ### The bit engine -/

theorem driveBit_addsOneEvent (i : Fin 8) (site : Site) (s : State) : AddsOneEvent s (driveBit i site s) :=
  (pinWrite_addsOneEvent .mosi (bitOf s.txSr i) { s with bitIdx := i }).goto (.xfer .rise site)

theorem beginExchange_addsOneEvent (out : Byte) (site : Site) (s : State) : AddsOneEvent s (beginExchange out site s) :=
  driveBit_addsOneEvent 7 site { s with txSr := out }

theorem pollDone_addsOneEvent (site : Site) (s : State) : AddsOneEvent s (pollDone site s) :=
  (pinRead_addsOneEvent .xferDone s).goto _

theorem pollAgain_addsOneEvent (site : Site) (s : State) : AddsOneEvent s (pollAgain site s) := by
  cases hl : s.cfg.pollLimit with
  | none =>
    rw [pollAgain_unbounded hl]
    exact pollDone_addsOneEvent site s
  | some n =>
    by_cases hn : s.pollCnt + 1 = n
    · rw [pollAgain_limit hl hn]
      exact (pinWrite_addsOneEvent .sclk false { s with pollCnt := s.pollCnt + 1 }).goto (.timedOut site)
    · rw [pollAgain_below hl hn]
      exact pollDone_addsOneEvent site { s with pollCnt := s.pollCnt + 1 }

theorem engineStep_addsOneEvent (x : XferStep) (site : Site) (s : State) : AddsOneEvent s (engineStep x site s) := by
  cases x with
  | rise => exact (pinWrite_addsOneEvent .sclk true s).goto (.xfer .settle site)
  | settle => exact (delay_addsOneEvent .settle { s with eng := .settle }).goto (.xfer .poll site)
  | poll => exact pollDone_addsOneEvent site { s with eng := .poll, pollCnt := _ }
  | repoll => exact pollAgain_addsOneEvent site s
  | sample => exact (pinRead_addsOneEvent .miso { s with rxSr := _ }).goto (.xfer .fall site)
  | fall => exact (pinWrite_addsOneEvent .sclk false s).goto (.fallen site)

theorem giveUp_addsOneEvent (site : Site) (s : State) : AddsOneEvent s (giveUp site s) :=
  raise_addsOneEvent (.timeout site) { s with eng := .idle, rxSr := _, freeCount := _ }

/-! ### The command channel -/

theorem selectCard_addsOneEvent (c : Caller) (s : State) : AddsOneEvent s (selectCard c s) :=
  (pinWrite_addsOneEvent .csN false s).goto (.selected c)

theorem enterCommand_addsOneEvent (c : Caller) (k : Command) (s : State) : AddsOneEvent s (enterCommand c k s) :=
  emitThen_addsOneEvent (.cmd k.cmd) (.announced c) (selectCard_addsOneEvent c (latch k s))

theorem sendFrameByte_addsOneEvent (k : Fin 6) (c : Caller) (s : State) : AddsOneEvent s (sendFrameByte k c s) :=
  beginExchange_addsOneEvent (s.chan.frameByte k) (.frame c) { s with chan := _ }

theorem windowLoop_addsOneEvent (c : Caller) (s : State) : AddsOneEvent s (windowLoop c s) := by
  by_cases h : s.chan.winLeft = 0
  · rw [windowLoop_end h]
    exact (pinWrite_addsOneEvent .csN true s).goto (.released c)
  · rw [windowLoop_more h]
    exact beginExchange_addsOneEvent filler (.window c) s

theorem frameByteDone_addsOneEvent (c : Caller) (s : State) : AddsOneEvent s (frameByteDone c s) := by
  by_cases h : s.chan.frameIdx = 5
  · rw [frameByteDone_last h]
    exact windowLoop_addsOneEvent c { s with chan := _ }
  · rw [frameByteDone_more h]
    exact sendFrameByte_addsOneEvent _ c s

theorem scanByte_addsOneEvent (c : Caller) (s : State) : AddsOneEvent s (scanByte c s) :=
  windowLoop_addsOneEvent c { s with chan := _ }

theorem windowByteDone_addsOneEvent (c : Caller) (s : State) : AddsOneEvent s (windowByteDone c s) :=
  emitThen_addsOneEvent (.resp s.rxSr) (.mirrored c) (scanByte_addsOneEvent c s)

/-! ### The card initialiser -/

theorem idleAttempt_addsOneEvent (s : State) : AddsOneEvent s (idleAttempt s) :=
  enterCommand_addsOneEvent .idle (Command.idle s.cfg) { s with initPhase := .idleCmd, attempt := s.attempt + 1 }

theorem opcondAttempt_addsOneEvent (s : State) : AddsOneEvent s (opcondAttempt s) :=
  enterCommand_addsOneEvent .opcond (Command.opcond s.cfg) { s with initPhase := .opcondCmd, attempt := s.attempt + 1 }

theorem sendBlocklen_addsOneEvent (s : State) : AddsOneEvent s (sendBlocklen s) :=
  enterCommand_addsOneEvent .blocklen (Command.blocklen s.cfg) { s with initPhase := .blocklen }

theorem prefixLoop_addsOneEvent (s : State) : AddsOneEvent s (prefixLoop s) := by
  by_cases h : s.prefixLeft = 0
  · rw [prefixLoop_end h]
    exact idleAttempt_addsOneEvent { s with attempt := 0 }
  · rw [prefixLoop_more h]
    exact beginExchange_addsOneEvent filler .prefixByte s

theorem idleResult_addsOneEvent (r : Byte) (s : State) : AddsOneEvent s (idleResult r s) := by
  by_cases h : r = 0x01#8
  · rw [idleResult_good h]
    exact opcondAttempt_addsOneEvent { s with attempt := 0 }
  · rw [idleResult_bad h]
    exact (delay_addsOneEvent .backoff { s with initPhase := .idleBackoff }).goto .idleBackedOff

theorem idleRetry_addsOneEvent (s : State) : AddsOneEvent s (idleRetry s) := by
  by_cases h : s.attempt = s.cfg.idleRetryLimit
  · rw [idleRetry_limit h]
    exact conclude_addsOneEvent .ok .idleExhausted s
  · rw [idleRetry_again h]
    exact idleAttempt_addsOneEvent s

theorem opcondResult_addsOneEvent (r : Byte) (s : State) : AddsOneEvent s (opcondResult r s) := by
  by_cases h : r = 0x00#8
  · rw [opcondResult_good h]
    exact sendBlocklen_addsOneEvent s
  · rw [opcondResult_bad h]
    exact (delay_addsOneEvent .backoff { s with initPhase := .opcondBackoff }).goto .opcondBackedOff

theorem opcondRetry_addsOneEvent (s : State) : AddsOneEvent s (opcondRetry s) := by
  by_cases h : s.attempt = s.cfg.opcondRetryLimit
  · rw [opcondRetry_limit h]
    exact conclude_addsOneEvent .ok .opcondExhausted s
  · rw [opcondRetry_again h]
    exact opcondAttempt_addsOneEvent s

theorem judgeBlocklen_addsOneEvent (r : Byte) (s : State) : AddsOneEvent s (judgeBlocklen r s) := by
  rw [judgeBlocklen_eq]
  exact conclude_addsOneEvent .ok _ s

theorem commandReturned_addsOneEvent (c : Caller) (r : Byte) (s : State) : AddsOneEvent s (commandReturned c r s) := by
  cases c with
  | host => exact complete_addsOneEvent .ok r s
  | idle => exact idleResult_addsOneEvent r s
  | opcond => exact opcondResult_addsOneEvent r s
  | blocklen => exact emitThen_addsOneEvent (.blocklen r) (.reported r) (judgeBlocklen_addsOneEvent r s)

theorem commandEnded_addsOneEvent (c : Caller) (s : State) : AddsOneEvent s (commandEnded c s) :=
  commandReturned_addsOneEvent c s.chan.scanLast (forgetChannel s)

/-! ### The sequencer and the requests' beginnings -/

theorem exchangeReturned_addsOneEvent (site : Site) (s : State) : AddsOneEvent s (exchangeReturned site s) := by
  cases site with
  | raw => exact complete_addsOneEvent .ok s.rxSr s
  | prefixByte => exact prefixLoop_addsOneEvent { s with prefixLeft := s.prefixLeft - 1 }
  | frame c => exact frameByteDone_addsOneEvent c s
  | window c => exact windowByteDone_addsOneEvent c s

theorem bitDone_addsOneEvent (site : Site) (s : State) : AddsOneEvent s (bitDone site s) := by
  by_cases h : s.bitIdx = 0
  · rw [bitDone_last h]
    exact exchangeReturned_addsOneEvent site { s with eng := .idle }
  · rw [bitDone_more h]
    exact driveBit_addsOneEvent (s.bitIdx - 1) site s

theorem resume_addsOneEvent (g : Seg) (s : State) : AddsOneEvent s (resume g s) := by
  cases g with
  | initSclk => exact (pinWrite_addsOneEvent .sclk false s).goto .initMosi
  | initMosi => exact (pinWrite_addsOneEvent .mosi true s).goto .initDone
  | initDone => exact complete_addsOneEvent .ok 0 { s with configured := true }
  | acknowledge => exact complete_addsOneEvent .ok 0 s
  | xfer x site => exact engineStep_addsOneEvent x site s
  | fallen site => exact bitDone_addsOneEvent site s
  | timedOut site => exact giveUp_addsOneEvent site s
  | announced c => exact selectCard_addsOneEvent c s
  | selected c => exact sendFrameByte_addsOneEvent 0 c s
  | mirrored c => exact scanByte_addsOneEvent c s
  | released c => exact emitThen_addsOneEvent .done (.ended c) (commandEnded_addsOneEvent c s)
  | ended c => exact commandEnded_addsOneEvent c s
  | aborted c => exact reraise_addsOneEvent c s
  | prefixStart => exact prefixLoop_addsOneEvent { s with prefixLeft := s.cfg.prefixBytes }
  | idleBackedOff => exact idleRetry_addsOneEvent s
  | opcondBackedOff => exact opcondRetry_addsOneEvent s
  | reported r => exact judgeBlocklen_addsOneEvent r s
  | abandoned => exact conclude_addsOneEvent .timeout .timedOut s

/-- Admission refused is a completion; admitted, the operation's own first primitive runs. -/
theorem admitted_addsOneEvent {first : State → State} {s : State} (hf : AddsOneEvent s (first s)) :
    AddsOneEvent s (admitted first s) := by
  cases hc : s.configured with
  | true =>
    rw [admitted_configured hc]
    exact hf
  | false =>
    rw [admitted_refused hc]
    exact complete_addsOneEvent .notConfigured 0 s

theorem firstStep_addsOneEvent (i : Instr) (s : State) : AddsOneEvent s (firstStep i s) := by
  cases i with
  | initBus => exact (pinWrite_addsOneEvent .csN true s).goto .initSclk
  | select => exact admitted_addsOneEvent ((pinWrite_addsOneEvent .csN false s).goto .acknowledge)
  | deselect => exact admitted_addsOneEvent ((pinWrite_addsOneEvent .csN true s).goto .acknowledge)
  | xchg out => exact admitted_addsOneEvent (beginExchange_addsOneEvent out .raw s)
  | sendCmd cmd arg crc win => exact admitted_addsOneEvent (enterCommand_addsOneEvent .host ⟨cmd, arg, crc, win⟩ s)
  | cardInit =>
    exact admitted_addsOneEvent
      ((pinWrite_addsOneEvent .csN true { s with initPhase := .prefixClocking }).goto .prefixStart)
  | fill => exact admitted_addsOneEvent (beginExchange_addsOneEvent filler .raw s)
  | goIdleState => exact admitted_addsOneEvent (enterCommand_addsOneEvent .host _ s)
  | sendOpCond => exact admitted_addsOneEvent (enterCommand_addsOneEvent .host _ s)
  | setBlocklen n => exact admitted_addsOneEvent (enterCommand_addsOneEvent .host _ s)

/-- Settles O35: of the ways a step can go (`step_cases`) only the idle block's wait records nothing, and it changes nothing;
each of the others is an operation that adds one event. -/
theorem oneEventPerStep : Obligations.OneEventPerStep := by
  intro s t h
  suffices (s.resetLine = false ∧ s.ctl = .idle ∧ s.host = [] ∧ t = s) ∨ AddsOneEvent s t by
    rcases this with ⟨hr, hc, hh, rfl⟩ | ⟨hcfg, hev⟩
    · exact ⟨rfl, .inl ⟨hr, hc, hh, rfl⟩⟩
    · exact ⟨hcfg, .inr hev⟩
  rcases step_cases h with ⟨_, rfl⟩ | hwait | ⟨_, _, w, ws, _, rfl⟩ |
    ⟨_, _, _, ⟨_, _, rfl⟩ | ⟨i, _, _, rfl⟩ | ⟨_, g, _, _, rfl⟩⟩
  · exact .inr (resetEvent_addsOneEvent s)
  · exact .inl hwait
  · exact .inr (accept_addsOneEvent w { s with host := ws })
  · exact .inr (raise_addsOneEvent .illegal s)
  · exact .inr (firstStep_addsOneEvent i s)
  · exact .inr (resume_addsOneEvent g s)

end Sys2Proof.Machine
end

section
/-! Each operation that branches, as a case rule: a property of its result is shown once for each branch, under the branch's own
condition. The laws of `Laws/Ops.lean` are the branches. -/

namespace Sys2Proof.Machine

variable {P : State → Prop} {s : State}

theorem emitThen_cases {d : Diag} {g : Seg} {k : State → State}
    (on : s.cfg.diagEnable = true → P ((s.record (.diag d)).goto g)) (off : s.cfg.diagEnable = false → P (k s)) :
    P (emitThen d g k s) := by
  cases hd : s.cfg.diagEnable with
  | true => exact emitThen_on hd ▸ on hd
  | false => exact emitThen_off hd ▸ off hd

theorem admitted_cases {first : State → State} (ok : s.configured = true → P (first s))
    (refused : s.configured = false → P (complete .notConfigured 0 s)) : P (admitted first s) := by
  cases hc : s.configured with
  | true => exact admitted_configured hc ▸ ok hc
  | false => exact admitted_refused hc ▸ refused hc

theorem pollDone_cases {site : Site}
    (high : inputLevel .xferDone s = true → P ((pinRead .xferDone s).goto (.xfer .sample site)))
    (low : inputLevel .xferDone s = false → P ((pinRead .xferDone s).goto (.xfer .repoll site))) :
    P (pollDone site s) := by
  cases hl : inputLevel .xferDone s with
  | true => exact pollDone_high hl ▸ high hl
  | false => exact pollDone_low hl ▸ low hl

theorem pollAgain_cases {site : Site} (unbounded : s.cfg.pollLimit = none → P (pollDone site s))
    (below : ∀ n, s.cfg.pollLimit = some n → s.pollCnt + 1 ≠ n →
      P (pollDone site { s with pollCnt := s.pollCnt + 1 }))
    (limit : ∀ n, s.cfg.pollLimit = some n → s.pollCnt + 1 = n →
      P ((pinWrite .sclk false { s with pollCnt := s.pollCnt + 1 }).goto (.timedOut site))) :
    P (pollAgain site s) := by
  cases hl : s.cfg.pollLimit with
  | none => exact pollAgain_unbounded hl ▸ unbounded hl
  | some n =>
    by_cases hn : s.pollCnt + 1 = n
    · exact pollAgain_limit hl hn ▸ limit n hl hn
    · exact pollAgain_below hl hn ▸ below n hl hn

theorem bitDone_cases {site : Site} (more : s.bitIdx ≠ 0 → P (driveBit (s.bitIdx - 1) site s))
    (last : s.bitIdx = 0 → P (exchangeReturned site { s with eng := .idle })) : P (bitDone site s) := by
  by_cases h : s.bitIdx = 0
  · exact bitDone_last h ▸ last h
  · exact bitDone_more h ▸ more h

theorem frameByteDone_cases {c : Caller} (more : s.chan.frameIdx ≠ 5 → P (sendFrameByte (s.chan.frameIdx + 1) c s))
    (last : s.chan.frameIdx = 5 → P (beginWindow c s)) : P (frameByteDone c s) := by
  by_cases h : s.chan.frameIdx = 5
  · exact frameByteDone_last h ▸ last h
  · exact frameByteDone_more h ▸ more h

theorem windowLoop_cases {c : Caller} (more : s.chan.winLeft ≠ 0 → P (beginExchange filler (.window c) s))
    (none : s.chan.winLeft = 0 → P ((releaseCS s).goto (.released c))) : P (windowLoop c s) := by
  by_cases h : s.chan.winLeft = 0
  · exact windowLoop_end h ▸ none h
  · exact windowLoop_more h ▸ more h

theorem prefixLoop_cases (more : s.prefixLeft ≠ 0 → P (beginExchange filler .prefixByte s))
    (none : s.prefixLeft = 0 → P (idleAttempt { s with attempt := 0 })) : P (prefixLoop s) := by
  by_cases h : s.prefixLeft = 0
  · exact prefixLoop_end h ▸ none h
  · exact prefixLoop_more h ▸ more h

theorem idleResult_cases {r : Byte} (good : P (opcondAttempt { s with attempt := 0 }))
    (bad : P ((delay .backoff { s with initPhase := .idleBackoff }).goto .idleBackedOff)) : P (idleResult r s) := by
  by_cases h : r = 0x01#8
  · exact idleResult_good h ▸ good
  · exact idleResult_bad h ▸ bad

theorem opcondResult_cases {r : Byte} (good : P (sendBlocklen s))
    (bad : P ((delay .backoff { s with initPhase := .opcondBackoff }).goto .opcondBackedOff)) :
    P (opcondResult r s) := by
  by_cases h : r = 0x00#8
  · exact opcondResult_good h ▸ good
  · exact opcondResult_bad h ▸ bad

theorem idleRetry_cases (limit : s.attempt = s.cfg.idleRetryLimit → P (conclude .ok .idleExhausted s))
    (again : s.attempt ≠ s.cfg.idleRetryLimit → P (idleAttempt s)) : P (idleRetry s) := by
  by_cases h : s.attempt = s.cfg.idleRetryLimit
  · exact idleRetry_limit h ▸ limit h
  · exact idleRetry_again h ▸ again h

theorem opcondRetry_cases (limit : s.attempt = s.cfg.opcondRetryLimit → P (conclude .ok .opcondExhausted s))
    (again : s.attempt ≠ s.cfg.opcondRetryLimit → P (opcondAttempt s)) : P (opcondRetry s) := by
  by_cases h : s.attempt = s.cfg.opcondRetryLimit
  · exact opcondRetry_limit h ▸ limit h
  · exact opcondRetry_again h ▸ again h

end Sys2Proof.Machine
end

section
/-! What one step of a running request does to the handshake, the pins, `configured` and the initialiser's registers, said once
for every operation: it goes on or it answers (30_encoding.md R82, 10_state.md R31, R33, R43, R47, R48). The operations are taken
from the primitives up, in the order of the model's files. -/

namespace Sys2Proof.Machine

/-! ### The terms -/

/-- What an event leaves of the level of the output `p`, `l` before it: a write of `p` sets it, reset takes it to Z (R31, R240). -/
def Event.levelAfter (p : OutPin) (l : Level) (e : Event) : Level :=
  match e with
  | .accept _ => l
  | .pin q v => if p = q then .driven v else l
  | .sample _ _ => l
  | .delay _ => l
  | .diag _ => l
  | .complete _ => l
  | .reset => .z

/-- The events of the primitives a request runs (00_scope.md R15): all but those of the handshake and of reset. -/
def Event.isPrimitive (e : Event) : Bool :=
  match e with
  | .accept _ => false
  | .pin _ _ => true
  | .sample _ _ => true
  | .delay _ => true
  | .diag _ => true
  | .complete _ => false
  | .reset => false

/-- The initialiser's registers as a request with opcode `op` has to leave them: CARD_INIT may write them (R43), so its view of
them is empty. -/
def State.initView (op : Byte) (s : State) : Option (InitPhase × Byte × BitVec 4 × Byte × Bool) :=
  if op = 0x06#8 then none else some (s.initPhase, s.prefixLeft, s.attempt, s.outcome, s.outcomeValid)

/-- The request with opcode `op` goes on from `s` to `t` by one primitive, to a place of its own sequence, the handshake
registers and `configured` untouched. -/
def Advances (op : Byte) (s t : State) : Prop :=
  t.ctl = s.ctl ∧ t.host = s.host ∧ t.req = s.req ∧ t.respValid = s.respValid ∧ t.resp = s.resp ∧
  t.configured = s.configured ∧ t.initView op = s.initView op ∧
  (∃ g, t.point = .within g ∧ g.belongsTo op) ∧
  ∃ e, t.trace = e :: s.trace ∧ e.isPrimitive = true ∧ ∀ p, t.level p = e.levelAfter p (s.level p)

/-- The request with opcode `op` completes from `s` to `t`, every level kept; only INIT_BUS may write `configured` (R33). -/
def Answers (op : Byte) (s t : State) : Prop :=
  t.ctl = .idle ∧ t.host = s.host ∧ t.req = s.req ∧ t.respValid = true ∧ t.point = .start ∧
  t.trace = .complete t.resp :: s.trace ∧
  (t.configured = s.configured ∨ op = 0x01#8 ∧ t.configured = true ∧ t.resp = 0x0000#16) ∧
  t.initView op = s.initView op ∧ ∀ p, t.level p = s.level p

/-- A step of a running request with opcode `op`. -/
def Goes (op : Byte) (s t : State) : Prop := Advances op s t ∨ Answers op s t

/-! ### The primitives and the handshake -/

theorem pinWrite_goes {op : Byte} {g : Seg} (p : OutPin) (v : Bool) (s : State) (hg : g.belongsTo op) :
    Goes op s ((pinWrite p v s).goto g) := by
  have hlevel (q : OutPin) : ((pinWrite p v s).goto g).level q = (Event.pin p v).levelAfter q (s.level q) :=
    pinWrite_level p q v s
  cases p <;> exact .inl ⟨rfl, rfl, rfl, rfl, rfl, rfl, rfl, ⟨g, rfl, hg⟩, .pin _ v, rfl, rfl, hlevel⟩

theorem pinRead_goes {op : Byte} {g : Seg} (p : InPin) (s : State) (hg : g.belongsTo op) :
    Goes op s ((pinRead p s).goto g) := by
  cases p <;> exact .inl ⟨rfl, rfl, rfl, rfl, rfl, rfl, rfl, ⟨g, rfl, hg⟩, .sample _ _, rfl, rfl, fun _ => rfl⟩

theorem delay_goes {op : Byte} {g : Seg} (k : Wait) (s : State) (hg : g.belongsTo op) :
    Goes op s ((delay k s).goto g) :=
  .inl ⟨rfl, rfl, rfl, rfl, rfl, rfl, rfl, ⟨g, rfl, hg⟩, .delay k, rfl, rfl, fun _ => rfl⟩

/-- An enabled Emit is the step's primitive; a disabled one leaves it to what follows. -/
theorem emitThen_goes {op : Byte} {g : Seg} (d : Diag) {k : State → State} {s : State} (hg : g.belongsTo op)
    (hk : Goes op s (k s)) : Goes op s (emitThen d g k s) := by
  refine emitThen_cases (fun _ => ?_) (fun _ => hk)
  exact .inl ⟨rfl, rfl, rfl, rfl, rfl, rfl, rfl, ⟨g, rfl, hg⟩, .diag d, rfl, rfl, fun _ => rfl⟩

theorem complete_goes (op : Byte) (st : Status) (data : Byte) (s : State) : Goes op s (complete st data s) :=
  .inr ⟨rfl, rfl, rfl, rfl, rfl, rfl, .inl rfl, rfl, fun _ => rfl⟩

theorem conclude_goes (st : Status) (o : InitOutcome) (s : State) : Goes 0x06#8 s (conclude st o s) :=
  complete_goes 0x06#8 st o.byte { s with initPhase := o.phase, outcome := o.byte, outcomeValid := true }

theorem reraise_goes (c : Caller) (s : State) : Goes c.opcode s (reraise c s) := by
  cases c with
  | host => exact complete_goes _ .timeout 0 (forgetChannel s)
  | idle => exact pinWrite_goes .csN true (forgetChannel s) rfl
  | opcond => exact pinWrite_goes .csN true (forgetChannel s) rfl
  | blocklen => exact pinWrite_goes .csN true (forgetChannel s) rfl

/-! ### The bit engine -/

theorem driveBit_goes (i : Fin 8) (site : Site) (s : State) : Goes site.opcode s (driveBit i site s) :=
  pinWrite_goes .mosi (bitOf s.txSr i) { s with bitIdx := i } rfl

theorem beginExchange_goes (out : Byte) (site : Site) (s : State) : Goes site.opcode s (beginExchange out site s) :=
  driveBit_goes 7 site { s with txSr := out }

theorem pollDone_goes (site : Site) (s : State) : Goes site.opcode s (pollDone site s) :=
  pinRead_goes .xferDone s rfl

theorem pollAgain_goes (site : Site) (s : State) : Goes site.opcode s (pollAgain site s) :=
  pollAgain_cases (fun _ => pollDone_goes site s)
    (fun _ _ _ => pollDone_goes site { s with pollCnt := s.pollCnt + 1 })
    (fun _ _ _ => pinWrite_goes .sclk false { s with pollCnt := s.pollCnt + 1 } rfl)

theorem engineStep_goes (x : XferStep) (site : Site) (s : State) : Goes site.opcode s (engineStep x site s) := by
  cases x with
  | rise => exact pinWrite_goes .sclk true s rfl
  | settle => exact delay_goes .settle { s with eng := .settle } rfl
  | poll => exact pollDone_goes site { s with eng := .poll, pollCnt := _ }
  | repoll => exact pollAgain_goes site s
  | sample => exact pinRead_goes .miso { s with rxSr := _ } rfl
  | fall => exact pinWrite_goes .sclk false s rfl

theorem raise_timeout_goes (site : Site) (s : State) : Goes site.opcode s (raise (.timeout site) s) := by
  cases site with
  | raw => exact complete_goes _ .timeout 0 s
  | prefixByte => exact pinWrite_goes .csN true s rfl
  | frame c => exact pinWrite_goes .csN true s rfl
  | window c => exact pinWrite_goes .csN true s rfl

theorem giveUp_goes (site : Site) (s : State) : Goes site.opcode s (giveUp site s) :=
  raise_timeout_goes site { s with eng := .idle, rxSr := _, freeCount := _ }

/-! ### The command channel -/

theorem selectCard_goes (c : Caller) (s : State) : Goes c.opcode s (selectCard c s) := pinWrite_goes .csN false s rfl

theorem enterCommand_goes (c : Caller) (k : Command) (s : State) : Goes c.opcode s (enterCommand c k s) :=
  emitThen_goes (s := latch k s) (.cmd k.cmd) rfl (selectCard_goes c (latch k s))

theorem sendFrameByte_goes (k : Fin 6) (c : Caller) (s : State) : Goes c.opcode s (sendFrameByte k c s) :=
  beginExchange_goes (s.chan.frameByte k) (.frame c) { s with chan := _ }

theorem windowLoop_goes (c : Caller) (s : State) : Goes c.opcode s (windowLoop c s) :=
  windowLoop_cases (fun _ => beginExchange_goes filler (.window c) s) (fun _ => pinWrite_goes .csN true s rfl)

theorem frameByteDone_goes (c : Caller) (s : State) : Goes c.opcode s (frameByteDone c s) :=
  frameByteDone_cases (fun _ => sendFrameByte_goes _ c s) (fun _ => windowLoop_goes c { s with chan := _ })

theorem scanByte_goes (c : Caller) (s : State) : Goes c.opcode s (scanByte c s) := windowLoop_goes c { s with chan := _ }

theorem windowByteDone_goes (c : Caller) (s : State) : Goes c.opcode s (windowByteDone c s) :=
  emitThen_goes (.resp s.rxSr) rfl (scanByte_goes c s)

/-! ### The card initialiser -/

theorem idleAttempt_goes (s : State) : Goes 0x06#8 s (idleAttempt s) :=
  enterCommand_goes .idle (Command.idle s.cfg) { s with initPhase := .idleCmd, attempt := s.attempt + 1 }

theorem opcondAttempt_goes (s : State) : Goes 0x06#8 s (opcondAttempt s) :=
  enterCommand_goes .opcond (Command.opcond s.cfg) { s with initPhase := .opcondCmd, attempt := s.attempt + 1 }

theorem sendBlocklen_goes (s : State) : Goes 0x06#8 s (sendBlocklen s) :=
  enterCommand_goes .blocklen (Command.blocklen s.cfg) { s with initPhase := .blocklen }

theorem prefixLoop_goes (s : State) : Goes 0x06#8 s (prefixLoop s) :=
  prefixLoop_cases (fun _ => beginExchange_goes filler .prefixByte s) (fun _ => idleAttempt_goes { s with attempt := 0 })

theorem idleResult_goes (r : Byte) (s : State) : Goes 0x06#8 s (idleResult r s) :=
  idleResult_cases (opcondAttempt_goes { s with attempt := 0 })
    (delay_goes .backoff { s with initPhase := .idleBackoff } rfl)

theorem idleRetry_goes (s : State) : Goes 0x06#8 s (idleRetry s) :=
  idleRetry_cases (fun _ => conclude_goes .ok .idleExhausted s) (fun _ => idleAttempt_goes s)

theorem opcondResult_goes (r : Byte) (s : State) : Goes 0x06#8 s (opcondResult r s) :=
  opcondResult_cases (sendBlocklen_goes s) (delay_goes .backoff { s with initPhase := .opcondBackoff } rfl)

theorem opcondRetry_goes (s : State) : Goes 0x06#8 s (opcondRetry s) :=
  opcondRetry_cases (fun _ => conclude_goes .ok .opcondExhausted s) (fun _ => opcondAttempt_goes s)

theorem judgeBlocklen_goes (r : Byte) (s : State) : Goes 0x06#8 s (judgeBlocklen r s) := by
  rw [judgeBlocklen_eq]
  exact conclude_goes .ok _ s

theorem commandEnded_goes (c : Caller) (s : State) : Goes c.opcode s (commandEnded c s) := by
  cases c with
  | host => exact complete_goes _ .ok s.chan.scanLast (forgetChannel s)
  | idle => exact idleResult_goes s.chan.scanLast (forgetChannel s)
  | opcond => exact opcondResult_goes s.chan.scanLast (forgetChannel s)
  | blocklen => exact emitThen_goes (s := forgetChannel s) (.blocklen _) rfl (judgeBlocklen_goes _ (forgetChannel s))

/-! ### The sequencer and the requests' beginnings -/

theorem exchangeReturned_goes (site : Site) (s : State) : Goes site.opcode s (exchangeReturned site s) := by
  cases site with
  | raw => exact complete_goes _ .ok s.rxSr s
  | prefixByte => exact prefixLoop_goes { s with prefixLeft := s.prefixLeft - 1 }
  | frame c => exact frameByteDone_goes c s
  | window c => exact windowByteDone_goes c s

theorem bitDone_goes (site : Site) (s : State) : Goes site.opcode s (bitDone site s) :=
  bitDone_cases (fun _ => driveBit_goes (s.bitIdx - 1) site s)
    (fun _ => exchangeReturned_goes site { s with eng := .idle })

/-- A request that stands at a place of its sequence goes on in that sequence or answers. -/
theorem resume_goes {op : Byte} {g : Seg} (s : State) (hg : g.belongsTo op) : Goes op s (resume g s) := by
  cases g with
  | initSclk => exact pinWrite_goes .sclk false s hg
  | initMosi => exact pinWrite_goes .mosi true s hg
  | initDone => exact .inr ⟨rfl, rfl, rfl, rfl, rfl, rfl, .inr ⟨hg, rfl, rfl⟩, rfl, fun _ => rfl⟩
  | acknowledge => exact complete_goes op .ok 0 s
  | xfer x site => exact hg ▸ engineStep_goes x site s
  | fallen site => exact hg ▸ bitDone_goes site s
  | timedOut site => exact hg ▸ giveUp_goes site s
  | announced c => exact hg ▸ selectCard_goes c s
  | selected c => exact hg ▸ sendFrameByte_goes 0 c s
  | mirrored c => exact hg ▸ scanByte_goes c s
  | released c => exact hg ▸ emitThen_goes .done rfl (commandEnded_goes c s)
  | ended c => exact hg ▸ commandEnded_goes c s
  | aborted c => exact hg ▸ reraise_goes c s
  | prefixStart => exact hg ▸ prefixLoop_goes { s with prefixLeft := s.cfg.prefixBytes }
  | idleBackedOff => exact hg ▸ idleRetry_goes s
  | opcondBackedOff => exact hg ▸ opcondRetry_goes s
  | reported r => exact hg ▸ judgeBlocklen_goes r s
  | abandoned => exact hg ▸ conclude_goes .timeout .timedOut s

/-- Admission refused is an answer; admitted, the operation begins. -/
theorem admitted_goes {op : Byte} {first : State → State} {s : State} (hf : Goes op s (first s)) :
    Goes op s (admitted first s) :=
  admitted_cases (fun _ => hf) (fun _ => complete_goes op .notConfigured 0 s)

theorem firstStep_goes (i : Instr) (s : State) : Goes i.opcode s (firstStep i s) := by
  cases i with
  | initBus => exact pinWrite_goes .csN true s rfl
  | select => exact admitted_goes (pinWrite_goes .csN false s (.inl rfl))
  | deselect => exact admitted_goes (pinWrite_goes .csN true s (.inr rfl))
  | xchg out => exact admitted_goes (beginExchange_goes out .raw s)
  | sendCmd cmd arg crc win => exact admitted_goes (enterCommand_goes .host ⟨cmd, arg, crc, win⟩ s)
  | cardInit => exact admitted_goes (pinWrite_goes .csN true { s with initPhase := .prefixClocking } rfl)
  | fill => exact admitted_goes (beginExchange_goes filler .raw s)
  | goIdleState => exact admitted_goes (enterCommand_goes .host _ s)
  | sendOpCond => exact admitted_goes (enterCommand_goes .host _ s)
  | setBlocklen n => exact admitted_goes (enterCommand_goes .host _ s)

end Sys2Proof.Machine
end

section
/-! The handshake invariant taken apart and put together, and what follows from the one thing a step can do (`Goes`): that the
invariant is kept, and which registers a step may write. -/

namespace Sys2Proof.Machine

/-! ### The handshake invariant -/

theorem HandshakeInv.point_of_idle {s : State} (h : HandshakeInv s) (hc : s.ctl = .idle) : s.point = .start := by
  simpa only [HandshakeInv, hc] using h

theorem HandshakeInv.of_busy {s : State} {op : Byte} (h : HandshakeInv s) (hc : s.ctl = .busy op) :
    s.respValid = false ∧ op = opcodeField s.req := by
  simp only [HandshakeInv, hc] at h
  exact ⟨h.1, h.2.1⟩

theorem HandshakeInv.of_within {s : State} {op : Byte} {g : Seg} (h : HandshakeInv s) (hc : s.ctl = .busy op)
    (hp : s.point = .within g) : g.belongsTo op ∧ ∃ i, decode s.req = .ok i := by
  simp only [HandshakeInv, hc, hp] at h
  exact h.2.2

/-- A word that is no request stands at its beginning: it never gets past admission. -/
theorem HandshakeInv.point_of_illegal {s : State} {op : Byte} {e : Reject} (h : HandshakeInv s) (hc : s.ctl = .busy op)
    (hd : decode s.req = .error e) : s.point = .start := by
  cases hp : s.point with
  | start => rfl
  | within g =>
    obtain ⟨_, i, hok⟩ := h.of_within hc hp
    cases hd.symm.trans hok

theorem handshakeInv_idle {s : State} (hc : s.ctl = .idle) (hp : s.point = .start) : HandshakeInv s := by
  simpa only [HandshakeInv, hc] using hp

theorem handshakeInv_start {s : State} {op : Byte} (hc : s.ctl = .busy op) (hv : s.respValid = false)
    (ho : op = opcodeField s.req) (hp : s.point = .start) : HandshakeInv s := by
  simp only [HandshakeInv, hc, hp]
  exact ⟨hv, ho, trivial⟩

theorem handshakeInv_within {s : State} {op : Byte} {g : Seg} {i : Instr} (hc : s.ctl = .busy op)
    (hv : s.respValid = false) (ho : op = opcodeField s.req) (hp : s.point = .within g) (hg : g.belongsTo op)
    (hd : decode s.req = .ok i) : HandshakeInv s := by
  simp only [HandshakeInv, hc, hp]
  exact ⟨hv, ho, hg, i, hd⟩

/-! ### A running request's step -/

theorem Seg.belongsTo_some (g : Seg) : ∃ op, g.belongsTo op := by
  cases g with
  | acknowledge => exact ⟨0x02#8, .inl rfl⟩
  | _ => exact ⟨_, rfl⟩

/-- Wherever a busy block stands, its step goes on or answers, in some request's sequence. -/
theorem busy_step_goes {s t : State} {op : Byte} (hr : s.resetLine = false) (hc : s.ctl = .busy op)
    (h : step s = .next t) : ∃ op', Goes op' s t := by
  rcases step_cases h with ⟨hr', _⟩ | ⟨_, hi, _⟩ | ⟨_, hi, _⟩ | ⟨_, _, _, ⟨_, _, rfl⟩ | ⟨i, _, _, rfl⟩ | ⟨_, g, _, _, rfl⟩⟩
  · simp [hr] at hr'
  · simp [hc] at hi
  · simp [hc] at hi
  · exact ⟨op, complete_goes op .illegal 0 s⟩
  · exact ⟨i.opcode, firstStep_goes i s⟩
  · obtain ⟨op', hg⟩ := g.belongsTo_some
    exact ⟨op', resume_goes s hg⟩

/-- With the handshake invariant that sequence is the running request's own, and only a word that decodes goes on. -/
theorem HandshakeInv.step_goes {s t : State} {op : Byte} (hi : HandshakeInv s) (hr : s.resetLine = false)
    (hc : s.ctl = .busy op) (h : step s = .next t) :
    Advances op s t ∧ (∃ i, decode s.req = .ok i) ∨ Answers op s t := by
  have withDecode {i : Instr} (hd : decode s.req = .ok i) (hg : Goes op s t) :
      Advances op s t ∧ (∃ i, decode s.req = .ok i) ∨ Answers op s t := hg.imp_left (⟨·, i, hd⟩)
  rcases step_cases h with ⟨hr', _⟩ | ⟨_, hx, _⟩ | ⟨_, hx, _⟩ |
    ⟨_, _, _, ⟨_, hd, rfl⟩ | ⟨i, hd, _, rfl⟩ | ⟨i, g, hd, hp, rfl⟩⟩
  · simp [hr] at hr'
  · simp [hc] at hx
  · simp [hc] at hx
  · have hill : Answers op s (raise .illegal s) := ⟨rfl, rfl, rfl, rfl, rfl, rfl, .inl rfl, rfl, fun _ => rfl⟩
    exact .inr hill
  · have hop : op = i.opcode := (hi.of_busy hc).2.trans (decode_opcode hd).symm
    exact withDecode hd (hop ▸ firstStep_goes i s)
  · exact withDecode hd (resume_goes s (hi.of_within hc hp).1)

/-- Settles O31: accepted, a request stands at its beginning; going on, at a place of its own sequence; answered, nowhere. -/
theorem stepKeepsHandshakeInv : Obligations.StepKeepsHandshakeInv := by
  intro s t hi h
  rcases step_cases h with ⟨_, rfl⟩ | ⟨_, _, _, rfl⟩ | ⟨_, _, w, ws, _, rfl⟩ | ⟨hr, op, hc, _⟩
  · exact handshakeInv_idle rfl rfl
  · exact hi
  · exact handshakeInv_start rfl rfl rfl rfl
  · obtain ⟨hv, ho⟩ := hi.of_busy hc
    rcases hi.step_goes hr hc h with ⟨⟨hctl, _, hreq, hvalid, _, _, _, ⟨g, hp, hg⟩, _⟩, i, hd⟩ | ⟨hctl, _, _, _, hp, _⟩
    · exact handshakeInv_within (hctl.trans hc) (hvalid.trans hv) (hreq ▸ ho) hp hg (hreq ▸ hd)
    · exact handshakeInv_idle hctl hp

/-- Settles O11: a primitive that goes on is no completion and leaves the response; an answer writes it. -/
theorem completionWritesTheResponse : Obligations.CompletionWritesTheResponse := by
  intro s t op hi hr hc h
  rcases hi.step_goes hr hc h with ⟨⟨hctl, _, _, hvalid, hresp, _, _, _, e, htrace, he, _⟩, _⟩ |
    ⟨hctl, _, _, hvalid, _, htrace, _⟩
  · refine .inl ⟨hctl, hvalid.trans (hi.of_busy hc).1, hresp, fun r hr => ?_⟩
    obtain rfl : e = .complete r := (List.cons.inj (htrace.symm.trans hr)).1
    cases he
  · exact .inr ⟨hctl, hvalid, htrace⟩

/-! ### The output levels -/

/-- Every step is an idle block's wait or records one event, which says what becomes of each level. -/
theorem step_levels {s t : State} (h : step s = .next t) :
    (s.resetLine = false ∧ t = s) ∨
    ∃ e, t.trace = e :: s.trace ∧ (e = .reset ↔ s.resetLine = true) ∧
      ∀ p, t.level p = e.levelAfter p (s.level p) := by
  rcases step_cases h with ⟨hr, rfl⟩ | ⟨hr, _, _, rfl⟩ | ⟨hr, _, w, ws, _, rfl⟩ | ⟨hr, op, hc, _⟩
  · exact .inr ⟨.reset, rfl, by simp [hr], fun p => by cases p <;> rfl⟩
  · exact .inl ⟨hr, rfl⟩
  · exact .inr ⟨.accept w, rfl, by simp [hr], fun _ => rfl⟩
  · obtain ⟨_, ⟨_, _, _, _, _, _, _, _, e, htrace, he, hlevel⟩ | ⟨_, _, _, _, _, htrace, _, _, hlevel⟩⟩ :=
      busy_step_goes hr hc h
    · have hne : e ≠ .reset := by
        rintro rfl
        cases he
      exact .inr ⟨e, htrace, by simp [hr, hne], hlevel⟩
    · exact .inr ⟨.complete t.resp, htrace, by simp [hr], hlevel⟩

/-- An event that is no reset keeps a level or is a write of its pin. -/
theorem Event.levelAfter_cases {e : Event} (p : OutPin) (l : Level) (h : e ≠ .reset) :
    e.levelAfter p l = l ∨ ∃ v, e.levelAfter p l = .driven v ∧ e = .pin p v := by
  cases e with
  | pin q v =>
    by_cases hq : p = q
    · exact .inr ⟨v, if_pos hq, by rw [hq]⟩
    · exact .inl (if_neg hq)
  | reset => exact absurd rfl h
  | accept _ => exact .inl rfl
  | sample _ _ => exact .inl rfl
  | delay _ => exact .inl rfl
  | diag _ => exact .inl rfl
  | complete _ => exact .inl rfl

/-- INIT_BUS from its beginning to its completion (40_transport.md R111). -/
theorem initBus_run {s : State} (h : s.point = .start) :
    execTimes .initBus 4 s = .next (resume .initDone (resume .initMosi (resume .initSclk (firstStep .initBus s)))) := by
  rw [execTimes_start h, execTimes_within (g := .initSclk) rfl, execTimes_within (g := .initMosi) rfl,
    execTimes_within (g := .initDone) rfl]
  rfl

/-- Settles O36: the event a step records says what becomes of every level (`step_levels`); INIT_BUS writes all three. -/
theorem outputsChangeOnlyByPinWrite : Obligations.OutputsChangeOnlyByPinWrite := by
  refine ⟨fun s t p hr h => ?_, fun s t p v h htrace => ?_, fun s t p hr h => ?_, fun s p hp => ?_⟩
  · rcases step_levels h with ⟨_, rfl⟩ | ⟨e, htrace, he, hlevel⟩
    · exact .inl rfl
    · have hne : e ≠ .reset := by simp [he, hr]
      rw [hlevel p, htrace]
      exact (Event.levelAfter_cases p (s.level p) hne).imp_right fun ⟨v, hv, he⟩ => ⟨v, hv, by rw [he]⟩
  · rcases step_levels h with ⟨_, rfl⟩ | ⟨e, htrace', _, hlevel⟩
    · exact absurd htrace.symm (List.cons_ne_self _ _)
    · obtain rfl : e = .pin p v := (List.cons.inj (htrace'.symm.trans htrace)).1
      exact (hlevel p).trans (if_pos rfl)
  · rcases step_levels h with ⟨hr', _⟩ | ⟨e, _, he, hlevel⟩
    · simp [hr] at hr'
    · rw [hlevel p, he.mpr hr]
      rfl
  · cases p with
    | csN => exact ⟨_, true, initBus_run hp, rfl⟩
    | sclk => exact ⟨_, false, initBus_run hp, rfl⟩
    | mosi => exact ⟨_, true, initBus_run hp, rfl⟩

/-! ### `configured` and the initialiser's registers -/

/-- Settles O37: a step that goes on keeps `configured`, and of the answers only INIT_BUS's writes it. -/
theorem configuredIsWrittenOnlyByInitBus : Obligations.ConfiguredIsWrittenOnlyByInitBus := by
  intro s t hi h hne
  rcases step_cases h with ⟨hr, rfl⟩ | ⟨_, _, _, rfl⟩ | ⟨_, _, w, ws, _, rfl⟩ | ⟨hr, op, hc, _⟩
  · exact .inl ⟨hr, rfl⟩
  · exact absurd rfl hne
  · exact absurd rfl hne
  · rcases hi.step_goes hr hc h with ⟨⟨_, _, _, _, _, hconf, _⟩, _⟩ | ⟨hctl, _, _, _, _, _, hconf, _⟩
    · exact absurd hconf hne
    · obtain ⟨rfl, hone, hresp⟩ := hconf.resolve_left hne
      exact .inr ⟨hr, hc, hctl, hone, hresp⟩

/-- A request that is not CARD_INIT has to leave all five registers. -/
theorem initView_eq {op : Byte} {s t : State} (hop : op ≠ 0x06#8) (h : t.initView op = s.initView op) :
    t.initPhase = s.initPhase ∧ t.prefixLeft = s.prefixLeft ∧ t.attempt = s.attempt ∧ t.outcome = s.outcome ∧
      t.outcomeValid = s.outcomeValid := by
  simpa [State.initView, hop] using h

/-- Settles O38: what another request leaves of the initialiser's registers is all five of them. -/
theorem onlyCardInitWritesItsRegisters : Obligations.OnlyCardInitWritesItsRegisters := by
  intro s t hi hr h hc6
  rcases step_cases h with ⟨hr', _⟩ | ⟨_, _, _, rfl⟩ | ⟨_, _, w, ws, _, rfl⟩ | ⟨_, op, hc, _⟩
  · simp [hr] at hr'
  · exact ⟨rfl, rfl, rfl, rfl, rfl⟩
  · exact ⟨rfl, rfl, rfl, rfl, rfl⟩
  · have hop : op ≠ 0x06#8 := fun h6 => hc6 (h6 ▸ hc)
    rcases hi.step_goes hr hc h with ⟨⟨_, _, _, _, _, _, hview, _⟩, _⟩ | ⟨_, _, _, _, _, _, _, hview, _⟩
    · exact initView_eq hop hview
    · exact initView_eq hop hview

end Sys2Proof.Machine
end

section
/-! The state after reset and the STATUS word (10_state.md R43, R49, R50). -/

namespace Sys2Proof.Machine

/-- Settles O13: `State.reset` is written with R50's values and R9's defaults. -/
theorem resetStateIsTheSpecs : Obligations.ResetStateIsTheSpecs := by
  unfold Obligations.ResetStateIsTheSpecs
  refine ⟨rfl, rfl, rfl, rfl, rfl, rfl, rfl, rfl, rfl, rfl, rfl, ?_⟩
  exact ⟨rfl, rfl, rfl, rfl, rfl, rfl, rfl, rfl, rfl, rfl, rfl, rfl, rfl⟩

/-- Settles O30: at reset the block is idle at no place, unconfigured, its engine idle and no outcome recorded. -/
theorem invariantsHoldAtReset : Obligations.InvariantsHoldAtReset := by
  have unconfigured {p : Prop} : State.reset.configured = true → p := nofun
  have noOutcome {p : Prop} : State.reset.outcomeValid = true → p := nofun
  exact ⟨handshakeInv_idle rfl rfl, ⟨unconfigured, rfl, unconfigured⟩, trivial, noOutcome, .inl ⟨rfl, rfl⟩⟩

/-! ### The STATUS word -/

/-- Bit `j` of the STATUS layout (R49), its fields from the lowest up. -/
theorem getLsbD_statusLayout (attempt phase : BitVec 4) (valid sel conf busy : Bool) (j : Nat) :
    (0#4 ++ attempt ++ phase ++ BitVec.ofBool valid ++ BitVec.ofBool sel ++ BitVec.ofBool conf ++
        BitVec.ofBool busy).getLsbD j =
      if j < 1 then busy else if j < 2 then conf else if j < 3 then sel else if j < 4 then valid else
      if j < 8 then phase.getLsbD (j - 4) else if j < 12 then attempt.getLsbD (j - 8) else false := by
  rw [BitVec.getLsbD_append, BitVec.getLsbD_append, BitVec.getLsbD_append, BitVec.getLsbD_append, BitVec.getLsbD_append,
    BitVec.getLsbD_append]
  grind

theorem getLsbD_status (s : State) (j : Nat) :
    s.status.getLsbD j =
      if j < 1 then s.busy else if j < 2 then s.configured else if j < 3 then s.selected else
      if j < 4 then s.respValid else if j < 8 then s.initPhase.code.getLsbD (j - 4) else
      if j < 12 then s.attempt.getLsbD (j - 8) else false :=
  getLsbD_statusLayout s.attempt s.initPhase.code s.respValid s.selected s.configured s.busy j

/-- A 4-bit field of a word, from its four bits. -/
theorem extractLsb'_four {w : Half} {k : Nat} {v : BitVec 4} (h : ∀ i < 4, w.getLsbD (k + i) = v.getLsbD i) :
    w.extractLsb' k 4 = v := by
  ext i hi
  rw [BitVec.getElem_extractLsb', h i hi, BitVec.getLsbD_eq_getElem]

/-- Settles O16: bit by bit (`getLsbD_status`); `selected` is read off `CS_N`. -/
theorem statusWordFields : Obligations.StatusWordFields := by
  intro s
  refine ⟨getLsbD_status s 0, getLsbD_status s 1, ?_, getLsbD_status s 3, extractLsb'_four fun i hi => ?_,
    extractLsb'_four fun i hi => ?_, extractLsb'_four fun i hi => ?_, rfl, rfl, rfl, rfl, rfl, rfl, rfl, rfl, rfl⟩
  · rw [show s.status.getLsbD 2 = s.selected from getLsbD_status s 2]
    simp [State.selected]
  · rw [getLsbD_status]
    grind
  · rw [getLsbD_status]
    grind
  · rw [getLsbD_status]
    grind

end Sys2Proof.Machine
end

section
/-! The bus invariant along every operation (10_state.md R31, R33, R36, 40_transport.md R110, R116): what each leaves of the pins
and the engine, from the primitives up. -/

namespace Sys2Proof.Machine

/-! ### The pins between exchanges and inside one -/

/-- A configured block drives its outputs (R33). -/
def DrivenIfConfigured (s : State) : Prop := s.configured = true → s.csN ≠ .z ∧ s.sclk ≠ .z ∧ s.mosi ≠ .z

/-- Between exchanges on a configured block: the engine idle, SCLK low, CS_N and MOSI driven. -/
def QuietBus (s : State) : Prop :=
  s.eng = .idle ∧ s.configured = true ∧ s.sclk = .driven false ∧ s.csN ≠ .z ∧ s.mosi ≠ .z

/-- Between exchanges with CS_N at `v`. -/
def QuietBusAt (v : Bool) (s : State) : Prop := QuietBus s ∧ s.csN = .driven v

/-- What most places of a sequence ask of the bus, CS_N at `v`. -/
def PlaceBus (v : Bool) (s : State) : Prop :=
  s.eng = .idle ∧ s.configured = true ∧ s.sclk = .driven false ∧ s.csN = .driven v

theorem driven_ne_z {l : Level} {v : Bool} (h : l = .driven v) : l ≠ .z := by
  rw [h]
  nofun

theorem Site.chipSelect_driven {site : Site} {cs : Level} (h : site.chipSelect cs) : cs ≠ .z := by
  cases site with
  | raw => exact h
  | prefixByte => exact driven_ne_z h
  | frame c => exact driven_ne_z h
  | window c => exact driven_ne_z h

theorem QuietBus.writeCS {s : State} (h : QuietBus s) (v : Bool) : QuietBusAt v (pinWrite .csN v s) := by
  obtain ⟨heng, hconf, hsclk, _, hmosi⟩ := h
  exact ⟨⟨heng, hconf, hsclk, driven_ne_z rfl, hmosi⟩, rfl⟩

theorem QuietBusAt.place {v : Bool} {s : State} (h : QuietBusAt v s) : PlaceBus v s := by
  obtain ⟨⟨heng, hconf, hsclk, _, _⟩, hcs⟩ := h
  exact ⟨heng, hconf, hsclk, hcs⟩

theorem BusInv.driven {s : State} (h : BusInv s) : DrivenIfConfigured s := h.1

theorem BusInv.at_start {s : State} (h : BusInv s) (hp : s.point = .start) :
    s.eng = .idle ∧ (s.configured = true → s.sclk = .driven false) := by
  simp only [BusInv, hp] at h
  exact h.2

theorem BusInv.at_place {s : State} {g : Seg} (h : BusInv s) (hp : s.point = .within g) : g.bus s := by
  simp only [BusInv, hp] at h
  exact h.2

theorem busInv_start {s : State} (hp : s.point = .start) (hd : DrivenIfConfigured s) (heng : s.eng = .idle)
    (hsclk : s.configured = true → s.sclk = .driven false) : BusInv s := by
  simp only [BusInv, hp]
  exact ⟨hd, heng, hsclk⟩

theorem busInv_within {s : State} {g : Seg} (hp : s.point = .within g) (hd : DrivenIfConfigured s) (hg : g.bus s) :
    BusInv s := by
  simp only [BusInv, hp]
  exact ⟨hd, hg⟩

theorem QuietBus.driven {s : State} (h : QuietBus s) : DrivenIfConfigured s := by
  obtain ⟨_, _, hsclk, hcs, hmosi⟩ := h
  exact fun _ => ⟨hcs, driven_ne_z hsclk, hmosi⟩

/-- The pins inside a bit, SCLK at `clk` (R116). -/
theorem driven_inBit {s : State} {site : Site} {clk bit : Bool} (hsclk : s.sclk = .driven clk)
    (hmosi : s.mosi = .driven bit) (hcs : site.chipSelect s.csN) : DrivenIfConfigured s :=
  fun _ => ⟨site.chipSelect_driven hcs, driven_ne_z hsclk, driven_ne_z hmosi⟩

/-! ### The handshake and chip-select -/

theorem complete_bus {s : State} (st : Status) (data : Byte) (h : QuietBus s) : BusInv (complete st data s) := by
  have hd := h.driven
  obtain ⟨heng, _, hsclk, _, _⟩ := h
  exact busInv_start rfl hd heng fun _ => hsclk

theorem conclude_bus {s : State} (st : Status) (o : InitOutcome) (h : QuietBus s) : BusInv (conclude st o s) :=
  complete_bus st o.byte (s := { s with initPhase := o.phase, outcome := o.byte, outcomeValid := true }) h

/-- CS_N is written between exchanges, and the place after it asks no more than its level. -/
theorem writeCS_bus {s : State} {g : Seg} {v : Bool} (h : QuietBus s) (hg : ∀ t, PlaceBus v t → g.bus t) :
    BusInv ((pinWrite .csN v s).goto g) :=
  busInv_within rfl (h.writeCS v).1.driven (hg _ (h.writeCS v).place)

theorem emitThen_bus {d : Diag} {g : Seg} {k : State → State} {s : State} (h : QuietBus s) (hg : g.bus s)
    (hk : BusInv (k s)) : BusInv (emitThen d g k s) :=
  emitThen_cases (fun _ => busInv_within rfl h.driven hg) (fun _ => hk)

theorem reraise_bus {s : State} (c : Caller) (h : QuietBus s) : BusInv (reraise c s) := by
  cases c with
  | host => exact complete_bus .timeout 0 (s := forgetChannel s) h
  | idle => exact writeCS_bus (s := forgetChannel s) h fun _ k => k
  | opcond => exact writeCS_bus (s := forgetChannel s) h fun _ k => k
  | blocklen => exact writeCS_bus (s := forgetChannel s) h fun _ k => k

/-! ### The bit engine -/

theorem driveBit_bus {i : Fin 8} {site : Site} {s : State} (heng : s.eng = XferStep.rise.engine i)
    (hconf : s.configured = true) (hsclk : s.sclk = .driven false) (hcs : site.chipSelect s.csN) :
    BusInv (driveBit i site s) :=
  busInv_within rfl (driven_inBit hsclk rfl hcs) ⟨heng, hconf, hsclk, rfl, hcs⟩

theorem beginExchange_bus {out : Byte} {site : Site} {s : State} (h : QuietBus s) (hcs : site.chipSelect s.csN) :
    BusInv (beginExchange out site s) := by
  obtain ⟨heng, hconf, hsclk, _, _⟩ := h
  exact driveBit_bus (s := { s with txSr := out }) heng hconf hsclk hcs

/-- A poll leaves the pins and the phase of polling, whatever it reads. -/
theorem pollDone_bus {site : Site} {s : State} (h : (Seg.xfer .repoll site).bus s) : BusInv (pollDone site s) := by
  have hd : DrivenIfConfigured s := by
    obtain ⟨_, _, hsclk, hmosi, hcs⟩ := h
    exact driven_inBit hsclk hmosi hcs
  exact pollDone_cases (fun _ => busInv_within rfl hd h) (fun _ => busInv_within rfl hd h)

theorem pollAgain_bus {site : Site} {s : State} (h : (Seg.xfer .repoll site).bus s) : BusInv (pollAgain site s) := by
  have ⟨heng, hconf, _, hmosi, hcs⟩ := h
  exact pollAgain_cases (fun _ => pollDone_bus h) (fun _ _ _ => pollDone_bus (s := { s with pollCnt := _ }) h)
    (fun _ _ _ => busInv_within rfl (driven_inBit rfl hmosi hcs) ⟨heng, hconf, rfl, hmosi, hcs⟩)

theorem engineStep_bus {x : XferStep} {site : Site} {s : State} (h : (Seg.xfer x site).bus s) :
    BusInv (engineStep x site s) := by
  obtain ⟨heng, hconf, hsclk, hmosi, hcs⟩ := h
  cases x with
  | rise => exact busInv_within rfl (driven_inBit rfl hmosi hcs) ⟨heng, hconf, rfl, hmosi, hcs⟩
  | settle => exact busInv_within rfl (driven_inBit hsclk hmosi hcs) ⟨rfl, hconf, hsclk, hmosi, hcs⟩
  | poll => exact pollDone_bus (s := { s with eng := .poll, pollCnt := _ }) ⟨rfl, hconf, hsclk, hmosi, hcs⟩
  | repoll => exact pollAgain_bus ⟨heng, hconf, hsclk, hmosi, hcs⟩
  | sample => exact busInv_within rfl (driven_inBit hsclk hmosi hcs) ⟨heng, hconf, hsclk, hmosi, hcs⟩
  | fall => exact busInv_within rfl (driven_inBit rfl hmosi hcs) ⟨heng, hconf, rfl, hmosi, hcs⟩

theorem raise_timeout_bus {site : Site} {s : State} (h : QuietBus s) : BusInv (raise (.timeout site) s) := by
  cases site with
  | raw => exact complete_bus .timeout 0 h
  | prefixByte => exact writeCS_bus h fun _ k => k
  | frame c => exact writeCS_bus h fun _ k => k
  | window c => exact writeCS_bus h fun _ k => k

theorem giveUp_bus {site : Site} {s : State} (h : (Seg.timedOut site).bus s) : BusInv (giveUp site s) := by
  obtain ⟨_, hconf, hsclk, hmosi, hcs⟩ := h
  exact raise_timeout_bus ⟨rfl, hconf, hsclk, site.chipSelect_driven hcs, driven_ne_z hmosi⟩

/-! ### The command channel -/

theorem selectCard_bus {c : Caller} {s : State} (h : QuietBus s) : BusInv (selectCard c s) :=
  writeCS_bus h fun _ k => k

theorem enterCommand_bus {c : Caller} {k : Command} {s : State} (h : QuietBus s) : BusInv (enterCommand c k s) := by
  have ⟨heng, hconf, hsclk, _, _⟩ := h
  exact emitThen_bus (s := latch k s) h ⟨heng, hconf, hsclk⟩ (selectCard_bus (s := latch k s) h)

theorem sendFrameByte_bus {k : Fin 6} {c : Caller} {s : State} (h : QuietBusAt false s) : BusInv (sendFrameByte k c s) :=
  beginExchange_bus (s := { s with chan := _ }) h.1 h.2

theorem windowLoop_bus {c : Caller} {s : State} (h : QuietBusAt false s) : BusInv (windowLoop c s) :=
  windowLoop_cases (fun _ => beginExchange_bus h.1 h.2) (fun _ => writeCS_bus h.1 fun _ k => k)

theorem frameByteDone_bus {c : Caller} {s : State} (h : QuietBusAt false s) : BusInv (frameByteDone c s) :=
  frameByteDone_cases (fun _ => sendFrameByte_bus h) (fun _ => windowLoop_bus (s := { s with chan := _ }) h)

theorem scanByte_bus {c : Caller} {s : State} (h : QuietBusAt false s) : BusInv (scanByte c s) :=
  windowLoop_bus (s := { s with chan := _ }) h

theorem windowByteDone_bus {c : Caller} {s : State} (h : QuietBusAt false s) : BusInv (windowByteDone c s) :=
  emitThen_bus h.1 h.place (scanByte_bus h)

/-! ### The card initialiser -/

theorem idleAttempt_bus {s : State} (h : QuietBus s) : BusInv (idleAttempt s) :=
  enterCommand_bus (s := { s with initPhase := .idleCmd, attempt := s.attempt + 1 }) h

theorem opcondAttempt_bus {s : State} (h : QuietBus s) : BusInv (opcondAttempt s) :=
  enterCommand_bus (s := { s with initPhase := .opcondCmd, attempt := s.attempt + 1 }) h

theorem sendBlocklen_bus {s : State} (h : QuietBus s) : BusInv (sendBlocklen s) :=
  enterCommand_bus (s := { s with initPhase := .blocklen }) h

theorem prefixLoop_bus {s : State} (h : QuietBusAt true s) : BusInv (prefixLoop s) :=
  prefixLoop_cases (fun _ => beginExchange_bus h.1 h.2) (fun _ => idleAttempt_bus (s := { s with attempt := 0 }) h.1)

theorem idleResult_bus {r : Byte} {s : State} (h : QuietBusAt true s) : BusInv (idleResult r s) :=
  idleResult_cases (opcondAttempt_bus (s := { s with attempt := 0 }) h.1) (busInv_within rfl h.1.driven h.place)

theorem idleRetry_bus {s : State} (h : QuietBus s) : BusInv (idleRetry s) :=
  idleRetry_cases (fun _ => conclude_bus .ok .idleExhausted h) (fun _ => idleAttempt_bus h)

theorem opcondResult_bus {r : Byte} {s : State} (h : QuietBusAt true s) : BusInv (opcondResult r s) :=
  opcondResult_cases (sendBlocklen_bus h.1) (busInv_within rfl h.1.driven h.place)

theorem opcondRetry_bus {s : State} (h : QuietBus s) : BusInv (opcondRetry s) :=
  opcondRetry_cases (fun _ => conclude_bus .ok .opcondExhausted h) (fun _ => opcondAttempt_bus h)

theorem judgeBlocklen_bus {r : Byte} {s : State} (h : QuietBus s) : BusInv (judgeBlocklen r s) := by
  rw [judgeBlocklen_eq]
  exact conclude_bus .ok _ h

theorem commandEnded_bus {c : Caller} {s : State} (h : QuietBusAt true s) : BusInv (commandEnded c s) := by
  cases c with
  | host => exact complete_bus .ok _ (s := forgetChannel s) h.1
  | idle => exact idleResult_bus (s := forgetChannel s) h
  | opcond => exact opcondResult_bus (s := forgetChannel s) h
  | blocklen => exact emitThen_bus (s := forgetChannel s) h.1 h.place (judgeBlocklen_bus (s := forgetChannel s) h.1)

/-! ### The sequencer, the requests' beginnings, the step -/

theorem exchangeReturned_bus {site : Site} {s : State} (h : QuietBus s) (hcs : site.chipSelect s.csN) :
    BusInv (exchangeReturned site s) := by
  cases site with
  | raw => exact complete_bus .ok _ h
  | prefixByte => exact prefixLoop_bus (s := { s with prefixLeft := s.prefixLeft - 1 }) ⟨h, hcs⟩
  | frame c => exact frameByteDone_bus ⟨h, hcs⟩
  | window c => exact windowByteDone_bus ⟨h, hcs⟩

/-- The bit below a bit is not the first one, so the engine is found polling (R116). -/
theorem rise_engine_pred {i : Fin 8} (h : i ≠ 0) : XferStep.rise.engine (i - 1) = .poll := by
  revert i
  decide

theorem bitDone_bus {site : Site} {s : State} (h : (Seg.fallen site).bus s) : BusInv (bitDone site s) := by
  obtain ⟨heng, hconf, hsclk, hmosi, hcs⟩ := h
  refine bitDone_cases (fun hi => ?_) (fun _ => ?_)
  · exact driveBit_bus (heng.trans (rise_engine_pred hi).symm) hconf hsclk hcs
  · exact exchangeReturned_bus ⟨rfl, hconf, hsclk, site.chipSelect_driven hcs, driven_ne_z hmosi⟩ hcs

/-- With the invariant, what a place asks of the bus is all of the pins. -/
theorem BusInv.quietAt {s : State} {v : Bool} (h : BusInv s) (hg : PlaceBus v s) : QuietBusAt v s := by
  obtain ⟨heng, hconf, hsclk, hcs⟩ := hg
  obtain ⟨hcz, _, hmosi⟩ := h.driven hconf
  exact ⟨⟨heng, hconf, hsclk, hcz, hmosi⟩, hcs⟩

theorem BusInv.quiet {s : State} (h : BusInv s)
    (hg : s.eng = .idle ∧ s.configured = true ∧ s.sclk = .driven false) : QuietBus s := by
  obtain ⟨heng, hconf, hsclk⟩ := hg
  obtain ⟨hcz, _, hmosi⟩ := h.driven hconf
  exact ⟨heng, hconf, hsclk, hcz, hmosi⟩

theorem resume_bus {s : State} {g : Seg} (h : BusInv s) (hp : s.point = .within g) : BusInv (resume g s) := by
  have hg := h.at_place hp
  cases g with
  | initSclk =>
    obtain ⟨heng, hcs⟩ := hg
    have hd : DrivenIfConfigured ((pinWrite .sclk false s).goto .initMosi) := fun hconf => by
      obtain ⟨hcz, _, hmosi⟩ := h.driven hconf
      exact ⟨hcz, driven_ne_z rfl, hmosi⟩
    exact busInv_within rfl hd ⟨heng, hcs, rfl⟩
  | initMosi =>
    obtain ⟨heng, hcs, hsclk⟩ := hg
    exact busInv_within rfl (fun _ => ⟨driven_ne_z hcs, driven_ne_z hsclk, driven_ne_z rfl⟩) ⟨heng, hcs, hsclk, rfl⟩
  | initDone =>
    obtain ⟨heng, hcs, hsclk, hmosi⟩ := hg
    exact complete_bus .ok 0 (s := { s with configured := true })
      ⟨heng, rfl, hsclk, driven_ne_z hcs, driven_ne_z hmosi⟩
  | acknowledge => exact complete_bus .ok 0 (h.quiet hg)
  | xfer x site => exact engineStep_bus hg
  | fallen site => exact bitDone_bus hg
  | timedOut site => exact giveUp_bus hg
  | announced c => exact selectCard_bus (h.quiet hg)
  | selected c => exact sendFrameByte_bus (h.quietAt hg)
  | mirrored c => exact scanByte_bus (h.quietAt hg)
  | released c => exact emitThen_bus (h.quietAt hg).1 hg (commandEnded_bus (h.quietAt hg))
  | ended c => exact commandEnded_bus (h.quietAt hg)
  | aborted c => exact reraise_bus c (h.quietAt hg).1
  | prefixStart => exact prefixLoop_bus (s := { s with prefixLeft := s.cfg.prefixBytes }) (h.quietAt hg)
  | idleBackedOff => exact idleRetry_bus (h.quietAt hg).1
  | opcondBackedOff => exact opcondRetry_bus (h.quietAt hg).1
  | reported r => exact judgeBlocklen_bus (h.quietAt hg).1
  | abandoned => exact conclude_bus .timeout .timedOut (h.quietAt hg).1

/-- At the beginning of a request or idle: the handshake alone changes no pin. -/
theorem BusInv.answer {s : State} (h : BusInv s) (hp : s.point = .start) (st : Status) (data : Byte) :
    BusInv (complete st data s) := by
  obtain ⟨heng, hsclk⟩ := h.at_start hp
  exact busInv_start rfl h.driven heng hsclk

theorem admitted_bus {first : State → State} {s : State} (h : BusInv s) (hp : s.point = .start)
    (hf : QuietBus s → BusInv (first s)) : BusInv (admitted first s) := by
  obtain ⟨heng, hsclk⟩ := h.at_start hp
  exact admitted_cases (fun hc => hf (h.quiet ⟨heng, hc, hsclk hc⟩)) (fun _ => h.answer hp .notConfigured 0)

theorem acknowledge_bus {s : State} (v : Bool) (h : QuietBus s) : BusInv ((pinWrite .csN v s).goto .acknowledge) :=
  writeCS_bus h fun _ ⟨heng, hconf, hsclk, _⟩ => ⟨heng, hconf, hsclk⟩

theorem rawExchange_bus {out : Byte} {s : State} (h : QuietBus s) : BusInv (beginExchange out .raw s) := by
  have ⟨_, _, _, hcs, _⟩ := h
  exact beginExchange_bus h hcs

theorem firstStep_bus {s : State} (i : Instr) (h : BusInv s) (hp : s.point = .start) : BusInv (firstStep i s) := by
  cases i with
  | initBus =>
    have hd : DrivenIfConfigured ((pinWrite .csN true s).goto .initSclk) := fun hconf => by
      obtain ⟨_, hsclk, hmosi⟩ := h.driven hconf
      exact ⟨driven_ne_z rfl, hsclk, hmosi⟩
    exact busInv_within rfl hd ⟨(h.at_start hp).1, rfl⟩
  | select => exact admitted_bus h hp (acknowledge_bus false)
  | deselect => exact admitted_bus h hp (acknowledge_bus true)
  | xchg out => exact admitted_bus h hp rawExchange_bus
  | sendCmd cmd arg crc win => exact admitted_bus h hp enterCommand_bus
  | cardInit =>
    exact admitted_bus h hp fun k => writeCS_bus (s := { s with initPhase := .prefixClocking }) k fun _ q => q
  | fill => exact admitted_bus h hp rawExchange_bus
  | goIdleState => exact admitted_bus h hp enterCommand_bus
  | sendOpCond => exact admitted_bus h hp enterCommand_bus
  | setBlocklen n => exact admitted_bus h hp enterCommand_bus

/-- Settles O32: reset leaves the block unconfigured, acceptance and refusal change no pin, and every operation of a running
request leaves the bus as the place it goes to asks. -/
theorem stepKeepsBusInv : Obligations.StepKeepsBusInv := by
  intro s t hi h hstep
  rcases step_cases hstep with ⟨_, rfl⟩ | ⟨_, _, _, rfl⟩ | ⟨_, hc, w, ws, _, rfl⟩ |
    ⟨_, op, hc, ⟨_, hd, rfl⟩ | ⟨i, _, hp, rfl⟩ | ⟨_, g, _, hp, rfl⟩⟩
  · exact busInv_start rfl nofun rfl nofun
  · exact h
  · obtain ⟨heng, hsclk⟩ := h.at_start (hi.point_of_idle hc)
    exact busInv_start rfl h.driven heng hsclk
  · exact h.answer (hi.point_of_illegal hc hd) .illegal 0
  · exact firstStep_bus i h hp
  · exact resume_bus h hp

end Sys2Proof.Machine
end

section
/-! The transfer invariant along every operation (10_state.md R37, R38, R39, R44, 41_command_channel.md R141, R145, R146,
42_card_init.md R173): what each leaves of the byte sent, the latched command, the countdowns and the count of polls. -/

namespace Sys2Proof.Machine

/-! ### The terms and the countdowns -/

theorem TransferInv.at_place {s : State} {g : Seg} (h : TransferInv s) (hp : s.point = .within g) : g.transfer s := by
  simpa only [TransferInv, hp] using h

theorem transferInv_start {s : State} (hp : s.point = .start) : TransferInv s := by
  simp only [TransferInv, hp]

theorem transferInv_within {s : State} {g : Seg} (hp : s.point = .within g) (hg : g.transfer s) : TransferInv s := by
  simpa only [TransferInv, hp] using hg

/-- A countdown that has not ended stays within its range one lower (R39, R44). -/
theorem countdown_le {a b : Byte} (h : a ≠ 0) (hle : a.toNat ≤ b.toNat) : (a - 1).toNat ≤ b.toNat := by
  bv_omega

theorem pollLimit_ne_zero {c : Config} {n : Nat} (hv : c.valid = true) (h : c.pollLimit = some n) : n ≠ 0 := by
  rintro rfl
  simp [Config.valid, h] at hv

/-- The frame registers hold the command of the call (R141). -/
def CommandHeld (c : Caller) (s : State) : Prop := s.chan.command = c.command s

/-! ### The primitives and the handshake -/

theorem complete_transfer (st : Status) (data : Byte) (s : State) : TransferInv (complete st data s) := transferInv_start rfl

theorem conclude_transfer (st : Status) (o : InitOutcome) (s : State) : TransferInv (conclude st o s) := transferInv_start rfl

theorem emitThen_transfer {d : Diag} {g : Seg} {k : State → State} {s : State} (hg : g.transfer s)
    (hk : TransferInv (k s)) : TransferInv (emitThen d g k s) :=
  emitThen_cases (fun _ => transferInv_within rfl hg) (fun _ => hk)

theorem reraise_transfer {c : Caller} {s : State} (h : s.cfg.pollLimit ≠ none) : TransferInv (reraise c s) := by
  cases c with
  | host => exact complete_transfer .timeout 0 (forgetChannel s)
  | idle => exact transferInv_within rfl h
  | opcond => exact transferInv_within rfl h
  | blocklen => exact transferInv_within rfl h

/-! ### The bit engine -/

theorem driveBit_transfer {i : Fin 8} {site : Site} {s : State} (h : site.sends s) : TransferInv (driveBit i site s) :=
  transferInv_within rfl ⟨h, nofun⟩

/-- A poll that reads 0 below the limit leaves its count below it. -/
theorem pollDone_transfer {site : Site} {s : State} (h : site.sends s)
    (hn : ∀ n, s.cfg.pollLimit = some n → s.pollCnt < n) : TransferInv (pollDone site s) :=
  pollDone_cases (fun _ => transferInv_within rfl ⟨h, nofun⟩) (fun _ => transferInv_within rfl ⟨h, fun _ => hn⟩)

theorem beginWait_transfer {site : Site} {s : State} (hv : s.cfg.valid = true) (h : site.sends s) :
    TransferInv (beginWait site s) := by
  refine pollDone_transfer (s := { s with eng := .poll, pollCnt := _ }) h fun n hn => ?_
  have hpos : 0 < n := Nat.pos_of_ne_zero (pollLimit_ne_zero hv hn)
  simpa [show s.cfg.pollLimit = some n from hn] using hpos

theorem pollAgain_transfer {site : Site} {s : State} (h : site.sends s)
    (hcnt : ∀ n, s.cfg.pollLimit = some n → s.pollCnt < n) : TransferInv (pollAgain site s) := by
  refine pollAgain_cases (fun _ => pollDone_transfer h hcnt) (fun n hl hn => ?_) (fun n hl _ => ?_)
  · refine pollDone_transfer (s := { s with pollCnt := s.pollCnt + 1 }) h fun m hm => ?_
    obtain rfl : n = m := Option.some.inj (hl.symm.trans hm)
    have := hcnt n hl
    show s.pollCnt + 1 < n
    omega
  · exact transferInv_within rfl ⟨h, by simp [hl]⟩

theorem engineStep_transfer {x : XferStep} {site : Site} {s : State} (hv : s.cfg.valid = true)
    (h : (Seg.xfer x site).transfer s) : TransferInv (engineStep x site s) := by
  obtain ⟨hs, hcnt⟩ := h
  cases x with
  | rise => exact transferInv_within rfl ⟨hs, nofun⟩
  | settle => exact transferInv_within rfl ⟨hs, nofun⟩
  | poll => exact beginWait_transfer hv hs
  | repoll => exact pollAgain_transfer hs (hcnt rfl)
  | sample => exact transferInv_within rfl ⟨hs, nofun⟩
  | fall => exact transferInv_within rfl hs

theorem giveUp_transfer {site : Site} {s : State} (h : s.cfg.pollLimit ≠ none) : TransferInv (giveUp site s) := by
  cases site with
  | raw => exact complete_transfer .timeout 0 _
  | prefixByte => exact transferInv_within rfl h
  | frame c => exact transferInv_within rfl h
  | window c => exact transferInv_within rfl h

/-! ### The command channel -/

theorem enterCommand_transfer {c : Caller} {k : Command} {s : State} (h : k = c.command s) :
    TransferInv (enterCommand c k s) :=
  have held : CommandHeld c (latch k s) := by
    subst h
    cases c <;> rfl
  emitThen_transfer (s := latch k s) held (transferInv_within rfl held)

/-- The byte sent is the one the registers hold at the index set with it (R145). -/
theorem sendFrameByte_transfer {k : Fin 6} {c : Caller} {s : State} (h : CommandHeld c s) :
    TransferInv (sendFrameByte k c s) :=
  driveBit_transfer (site := .frame c) ⟨h, rfl⟩

theorem windowLoop_transfer {c : Caller} {s : State} (h : CommandHeld c s)
    (hw : s.chan.winLeft.toNat ≤ s.chan.fWin.toNat) : TransferInv (windowLoop c s) :=
  windowLoop_cases (fun hne => driveBit_transfer (site := .window c) ⟨h, rfl, hne, hw⟩)
    (fun h0 => transferInv_within rfl ⟨h, h0⟩)

theorem frameByteDone_transfer {c : Caller} {s : State} (h : CommandHeld c s) : TransferInv (frameByteDone c s) :=
  frameByteDone_cases (fun _ => sendFrameByte_transfer h)
    (fun _ => windowLoop_transfer (s := { s with chan := _ }) h (Nat.le_refl _))

theorem scanByte_transfer {c : Caller} {s : State} (h : CommandHeld c s) (hne : s.chan.winLeft ≠ 0)
    (hw : s.chan.winLeft.toNat ≤ s.chan.fWin.toNat) : TransferInv (scanByte c s) :=
  windowLoop_transfer (s := { s with chan := _ }) h (countdown_le hne hw)

/-! ### The card initialiser -/

theorem idleAttempt_transfer (s : State) : TransferInv (idleAttempt s) := enterCommand_transfer rfl

theorem opcondAttempt_transfer (s : State) : TransferInv (opcondAttempt s) := enterCommand_transfer rfl

theorem sendBlocklen_transfer (s : State) : TransferInv (sendBlocklen s) := enterCommand_transfer rfl

theorem prefixLoop_transfer {s : State} (h : s.prefixLeft.toNat ≤ s.cfg.prefixBytes.toNat) :
    TransferInv (prefixLoop s) :=
  prefixLoop_cases (fun hne => driveBit_transfer (site := .prefixByte) ⟨rfl, hne, h⟩) (fun _ => idleAttempt_transfer _)

theorem idleRetry_transfer (s : State) : TransferInv (idleRetry s) :=
  idleRetry_cases (fun _ => conclude_transfer .ok .idleExhausted s) (fun _ => idleAttempt_transfer s)

theorem opcondRetry_transfer (s : State) : TransferInv (opcondRetry s) :=
  opcondRetry_cases (fun _ => conclude_transfer .ok .opcondExhausted s) (fun _ => opcondAttempt_transfer s)

theorem judgeBlocklen_transfer (r : Byte) (s : State) : TransferInv (judgeBlocklen r s) := by
  rw [judgeBlocklen_eq]
  exact conclude_transfer .ok _ s

/-- Nothing of a command that has returned is asked of the places after it. -/
theorem commandEnded_transfer (c : Caller) (s : State) : TransferInv (commandEnded c s) := by
  cases c with
  | host => exact complete_transfer .ok _ (forgetChannel s)
  | idle => exact idleResult_cases (opcondAttempt_transfer _) (transferInv_within rfl trivial)
  | opcond => exact opcondResult_cases (sendBlocklen_transfer _) (transferInv_within rfl trivial)
  | blocklen => exact emitThen_transfer (g := .reported _) trivial (judgeBlocklen_transfer _ _)

/-! ### The sequencer, the requests' beginnings, the step -/

theorem exchangeReturned_transfer {site : Site} {s : State} (h : site.sends s) : TransferInv (exchangeReturned site s) := by
  cases site with
  | raw => exact complete_transfer .ok _ s
  | prefixByte =>
    obtain ⟨_, hne, hle⟩ := h
    exact prefixLoop_transfer (s := { s with prefixLeft := s.prefixLeft - 1 }) (countdown_le hne hle)
  | frame c => exact frameByteDone_transfer h.1
  | window c =>
    obtain ⟨hheld, _, hne, hle⟩ := h
    exact emitThen_transfer (g := .mirrored c) ⟨hheld, hne, hle⟩ (scanByte_transfer hheld hne hle)

theorem bitDone_transfer {site : Site} {s : State} (h : site.sends s) : TransferInv (bitDone site s) :=
  bitDone_cases (fun _ => driveBit_transfer h) (fun _ => exchangeReturned_transfer (s := { s with eng := .idle }) h)

theorem resume_transfer {s : State} {g : Seg} (hv : s.cfg.valid = true) (h : g.transfer s) :
    TransferInv (resume g s) := by
  cases g with
  | initSclk => exact transferInv_within rfl trivial
  | initMosi => exact transferInv_within rfl trivial
  | initDone => exact complete_transfer .ok 0 _
  | acknowledge => exact complete_transfer .ok 0 s
  | xfer x site => exact engineStep_transfer hv h
  | fallen site => exact bitDone_transfer h
  | timedOut site => exact giveUp_transfer h.2
  | announced c => exact transferInv_within rfl h
  | selected c => exact sendFrameByte_transfer h
  | mirrored c =>
    obtain ⟨hheld, hne, hle⟩ := h
    exact scanByte_transfer hheld hne hle
  | released c => exact emitThen_transfer (g := .ended c) h (commandEnded_transfer c s)
  | ended c => exact commandEnded_transfer c s
  | aborted c => exact reraise_transfer h
  | prefixStart => exact prefixLoop_transfer (s := { s with prefixLeft := s.cfg.prefixBytes }) (Nat.le_refl _)
  | idleBackedOff => exact idleRetry_transfer s
  | opcondBackedOff => exact opcondRetry_transfer s
  | reported r => exact judgeBlocklen_transfer r s
  | abandoned => exact conclude_transfer .timeout .timedOut s

theorem admitted_transfer {first : State → State} {s : State} (hf : TransferInv (first s)) :
    TransferInv (admitted first s) :=
  admitted_cases (fun _ => hf) (fun _ => complete_transfer .notConfigured 0 s)

/-- A decoded request begins with the operands of its word (R114, R141). -/
theorem firstStep_transfer {i : Instr} {s : State} (hd : decode s.req = .ok i) : TransferInv (firstStep i s) := by
  rcases decode_cases hd with ⟨_, _, rfl⟩ | ⟨_, _, rfl⟩ | ⟨_, _, rfl⟩ | ⟨_, _, rfl⟩ | ⟨_, rfl⟩ | ⟨_, _, rfl⟩
  · exact transferInv_within rfl trivial
  · exact admitted_transfer (transferInv_within rfl trivial)
  · exact admitted_transfer (transferInv_within rfl trivial)
  · exact admitted_transfer (driveBit_transfer (site := .raw) rfl)
  · exact admitted_transfer (enterCommand_transfer rfl)
  · exact admitted_transfer (transferInv_within rfl trivial)

/-- Settles O33: outside a request nothing is asked, a decoded word begins with its own operands, and every operation leaves the
registers as the place it goes to asks. -/
theorem stepKeepsTransferInv : Obligations.StepKeepsTransferInv := by
  intro s t hv h hstep
  rcases step_cases hstep with ⟨_, rfl⟩ | ⟨_, _, _, rfl⟩ | ⟨_, _, w, ws, _, rfl⟩ |
    ⟨_, op, _, ⟨_, _, rfl⟩ | ⟨i, hd, _, rfl⟩ | ⟨_, g, _, hp, rfl⟩⟩
  · exact transferInv_start rfl
  · exact h
  · exact transferInv_start rfl
  · exact complete_transfer .illegal 0 s
  · exact firstStep_transfer hd
  · exact resume_transfer hv (h.at_place hp)

end Sys2Proof.Machine
end

section
/-! The initialiser invariant along every operation (10_state.md R43, R45, R46, 42_card_init.md R172, R192): what each leaves of
`init_phase`, `attempt` and the outcome. -/

namespace Sys2Proof.Machine

/-! ### The terms and the attempts -/

/-- A valid outcome is one of the codes of 60_exceptions.md R237. -/
def OutcomeCoded (s : State) : Prop := s.outcomeValid = true → ∃ o : InitOutcome, s.outcome = o.byte

theorem InitInv.coded {s : State} (h : InitInv s) : OutcomeCoded s := h.1

theorem InitInv.at_start {s : State} (h : InitInv s) (hp : s.point = .start) : Resting s := by
  simp only [InitInv, hp] at h
  exact h.2

theorem InitInv.at_place {s : State} {g : Seg} (h : InitInv s) (hp : s.point = .within g) : g.phase s := by
  simp only [InitInv, hp] at h
  exact h.2

theorem initInv_start {s : State} (hp : s.point = .start) (hc : OutcomeCoded s) (h : Resting s) : InitInv s := by
  simp only [InitInv, hp]
  exact ⟨hc, h⟩

theorem initInv_within {s : State} {g : Seg} (hp : s.point = .within g) (hc : OutcomeCoded s) (h : g.phase s) :
    InitInv s := by
  simp only [InitInv, hp]
  exact ⟨hc, h⟩

/-- One attempt more, below the limit, is within it (R192). -/
theorem attempt_succ_within {a limit : BitVec 4} (h : a.toNat < limit.toNat) :
    0 < (a + 1).toNat ∧ (a + 1).toNat ≤ limit.toNat := by
  bv_omega

theorem attempts_below {s : State} {limit : BitVec 4} (h : AttemptsWithin s limit) (hne : s.attempt ≠ limit) :
    s.attempt.toNat < limit.toNat :=
  Nat.lt_of_le_of_ne h.2 (BitVec.toNat_ne_iff_ne.mpr hne)

theorem retryLimits_pos {c : Config} (hv : c.valid = true) :
    0 < c.idleRetryLimit.toNat ∧ 0 < c.opcondRetryLimit.toNat := by
  simp only [Config.valid, Bool.and_eq_true, decide_eq_true_eq] at hv
  obtain ⟨⟨hidle, hopcond⟩, _⟩ := hv
  exact ⟨by bv_omega, by bv_omega⟩

/-! ### The handshake -/

theorem complete_init {st : Status} {data : Byte} {s : State} (hc : OutcomeCoded s) (h : Resting s) :
    InitInv (complete st data s) := initInv_start rfl hc h

/-- CARD_INIT ends with its outcome recorded and `init_phase` the outcome's (R172, R237). -/
theorem conclude_init (st : Status) (o : InitOutcome) (s : State) : InitInv (conclude st o s) := by
  refine initInv_start rfl (fun _ => ⟨o, rfl⟩) ?_
  cases o with
  | ready => exact .inr (.inl ⟨rfl, rfl, rfl⟩)
  | idleExhausted => exact .inr (.inr ⟨rfl, rfl, .idleExhausted, nofun, rfl⟩)
  | opcondExhausted => exact .inr (.inr ⟨rfl, rfl, .opcondExhausted, nofun, rfl⟩)
  | blocklenRejected => exact .inr (.inr ⟨rfl, rfl, .blocklenRejected, nofun, rfl⟩)
  | timedOut => exact .inr (.inr ⟨rfl, rfl, .timedOut, nofun, rfl⟩)

theorem emitThen_init {d : Diag} {g : Seg} {k : State → State} {s : State} (hc : OutcomeCoded s) (hg : g.phase s)
    (hk : InitInv (k s)) : InitInv (emitThen d g k s) :=
  emitThen_cases (fun _ => initInv_within rfl hc hg) (fun _ => hk)

theorem reraise_init {c : Caller} {s : State} (hc : OutcomeCoded s) (h : c.phase s) : InitInv (reraise c s) := by
  cases c with
  | host => exact complete_init (s := forgetChannel s) hc h
  | idle => exact initInv_within rfl hc (.inr (.inl h.1))
  | opcond => exact initInv_within rfl hc (.inr (.inr (.inl h.1)))
  | blocklen => exact initInv_within rfl hc (.inr (.inr (.inr h.1)))

/-! ### The bit engine and the command channel: the phase of the call stays -/

theorem driveBit_init {i : Fin 8} {site : Site} {s : State} (hc : OutcomeCoded s) (h : site.phase s) :
    InitInv (driveBit i site s) := initInv_within rfl hc h

theorem pollDone_init {site : Site} {s : State} (hc : OutcomeCoded s) (h : site.phase s) : InitInv (pollDone site s) :=
  initInv_within rfl hc h

theorem engineStep_init {x : XferStep} {site : Site} {s : State} (hc : OutcomeCoded s) (h : site.phase s) :
    InitInv (engineStep x site s) := by
  cases x with
  | rise => exact initInv_within rfl hc h
  | settle => exact initInv_within rfl hc h
  | poll => exact pollDone_init (s := { s with eng := .poll, pollCnt := _ }) hc h
  | repoll =>
    exact pollAgain_cases (fun _ => pollDone_init hc h) (fun _ _ _ => pollDone_init (s := { s with pollCnt := _ }) hc h)
      (fun _ _ _ => initInv_within rfl hc h)
  | sample => exact initInv_within rfl hc h
  | fall => exact initInv_within rfl hc h

theorem giveUp_init {site : Site} {s : State} (hc : OutcomeCoded s) (h : site.phase s) : InitInv (giveUp site s) := by
  cases site with
  | raw => exact complete_init (s := { s with eng := .idle, rxSr := _, freeCount := _ }) hc h
  | prefixByte => exact initInv_within rfl hc (.inl h)
  | frame c => exact initInv_within rfl hc h
  | window c => exact initInv_within rfl hc h

theorem selectCard_init {c : Caller} {s : State} (hc : OutcomeCoded s) (h : c.phase s) : InitInv (selectCard c s) :=
  initInv_within rfl hc h

theorem enterCommand_init {c : Caller} {k : Command} {s : State} (hc : OutcomeCoded s) (h : c.phase s) :
    InitInv (enterCommand c k s) :=
  emitThen_init (s := latch k s) hc h (selectCard_init (s := latch k s) hc h)

theorem sendFrameByte_init {k : Fin 6} {c : Caller} {s : State} (hc : OutcomeCoded s) (h : c.phase s) :
    InitInv (sendFrameByte k c s) :=
  driveBit_init (site := .frame c) hc h

theorem windowLoop_init {c : Caller} {s : State} (hc : OutcomeCoded s) (h : c.phase s) : InitInv (windowLoop c s) :=
  windowLoop_cases (fun _ => driveBit_init (site := .window c) hc h) (fun _ => initInv_within rfl hc h)

theorem scanByte_init {c : Caller} {s : State} (hc : OutcomeCoded s) (h : c.phase s) : InitInv (scanByte c s) :=
  windowLoop_init (s := { s with chan := _ }) hc h

/-! ### The card initialiser -/

theorem idleAttempt_init {s : State} (hc : OutcomeCoded s) (h : s.attempt.toNat < s.cfg.idleRetryLimit.toNat) :
    InitInv (idleAttempt s) :=
  enterCommand_init (s := { s with initPhase := .idleCmd, attempt := s.attempt + 1 }) hc ⟨rfl, attempt_succ_within h⟩

theorem opcondAttempt_init {s : State} (hc : OutcomeCoded s) (h : s.attempt.toNat < s.cfg.opcondRetryLimit.toNat) :
    InitInv (opcondAttempt s) :=
  enterCommand_init (s := { s with initPhase := .opcondCmd, attempt := s.attempt + 1 }) hc ⟨rfl, attempt_succ_within h⟩

theorem sendBlocklen_init {s : State} (hc : OutcomeCoded s) (h : AttemptsWithin s s.cfg.opcondRetryLimit) :
    InitInv (sendBlocklen s) :=
  enterCommand_init (s := { s with initPhase := .blocklen }) hc ⟨rfl, h⟩

theorem prefixLoop_init {s : State} (hv : s.cfg.valid = true) (hc : OutcomeCoded s)
    (h : s.initPhase = .prefixClocking) : InitInv (prefixLoop s) :=
  prefixLoop_cases (fun _ => driveBit_init (site := .prefixByte) hc h)
    (fun _ => idleAttempt_init (s := { s with attempt := 0 }) hc (retryLimits_pos hv).1)

theorem idleResult_init {r : Byte} {s : State} (hv : s.cfg.valid = true) (hc : OutcomeCoded s)
    (h : AttemptsWithin s s.cfg.idleRetryLimit) : InitInv (idleResult r s) :=
  idleResult_cases (opcondAttempt_init (s := { s with attempt := 0 }) hc (retryLimits_pos hv).2)
    (initInv_within rfl hc ⟨rfl, h⟩)

theorem idleRetry_init {s : State} (hc : OutcomeCoded s) (h : AttemptsWithin s s.cfg.idleRetryLimit) :
    InitInv (idleRetry s) :=
  idleRetry_cases (fun _ => conclude_init .ok .idleExhausted s) (fun hne => idleAttempt_init hc (attempts_below h hne))

theorem opcondResult_init {r : Byte} {s : State} (hc : OutcomeCoded s) (h : AttemptsWithin s s.cfg.opcondRetryLimit) :
    InitInv (opcondResult r s) :=
  opcondResult_cases (sendBlocklen_init hc h) (initInv_within rfl hc ⟨rfl, h⟩)

theorem opcondRetry_init {s : State} (hc : OutcomeCoded s) (h : AttemptsWithin s s.cfg.opcondRetryLimit) :
    InitInv (opcondRetry s) :=
  opcondRetry_cases (fun _ => conclude_init .ok .opcondExhausted s)
    (fun hne => opcondAttempt_init hc (attempts_below h hne))

theorem judgeBlocklen_init (r : Byte) (s : State) : InitInv (judgeBlocklen r s) := by
  rw [judgeBlocklen_eq]
  exact conclude_init .ok _ s

theorem commandEnded_init {c : Caller} {s : State} (hv : s.cfg.valid = true) (hc : OutcomeCoded s) (h : c.phase s) :
    InitInv (commandEnded c s) := by
  cases c with
  | host => exact complete_init (s := forgetChannel s) hc h
  | idle => exact idleResult_init (s := forgetChannel s) hv hc h.2
  | opcond => exact opcondResult_init (s := forgetChannel s) hc h.2
  | blocklen => exact emitThen_init (s := forgetChannel s) (g := .reported _) hc h (judgeBlocklen_init _ _)

/-! ### The sequencer, the requests' beginnings, the step -/

theorem exchangeReturned_init {site : Site} {s : State} (hv : s.cfg.valid = true) (hc : OutcomeCoded s)
    (h : site.phase s) : InitInv (exchangeReturned site s) := by
  cases site with
  | raw => exact complete_init hc h
  | prefixByte => exact prefixLoop_init (s := { s with prefixLeft := s.prefixLeft - 1 }) hv hc h
  | frame c =>
    exact frameByteDone_cases (fun _ => sendFrameByte_init hc h)
      (fun _ => windowLoop_init (s := { s with chan := _ }) hc h)
  | window c => exact emitThen_init (g := .mirrored c) hc h (scanByte_init hc h)

theorem bitDone_init {site : Site} {s : State} (hv : s.cfg.valid = true) (hc : OutcomeCoded s) (h : site.phase s) :
    InitInv (bitDone site s) :=
  bitDone_cases (fun _ => driveBit_init hc h) (fun _ => exchangeReturned_init (s := { s with eng := .idle }) hv hc h)

theorem resume_init {s : State} {g : Seg} (hv : s.cfg.valid = true) (hc : OutcomeCoded s) (h : g.phase s) :
    InitInv (resume g s) := by
  cases g with
  | initSclk => exact initInv_within rfl hc h
  | initMosi => exact initInv_within rfl hc h
  | initDone => exact complete_init (s := { s with configured := true }) hc h
  | acknowledge => exact complete_init hc h
  | xfer x site => exact engineStep_init hc h
  | fallen site => exact bitDone_init hv hc h
  | timedOut site => exact giveUp_init hc h
  | announced c => exact selectCard_init hc h
  | selected c => exact sendFrameByte_init hc h
  | mirrored c => exact scanByte_init hc h
  | released c => exact emitThen_init (g := .ended c) hc h (commandEnded_init hv hc h)
  | ended c => exact commandEnded_init hv hc h
  | aborted c => exact reraise_init hc h
  | prefixStart => exact prefixLoop_init (s := { s with prefixLeft := s.cfg.prefixBytes }) hv hc h
  | idleBackedOff => exact idleRetry_init hc h.2
  | opcondBackedOff => exact opcondRetry_init hc h.2
  | reported r => exact judgeBlocklen_init r s
  | abandoned => exact conclude_init .timeout .timedOut s

theorem admitted_init {first : State → State} {s : State} (hc : OutcomeCoded s) (h : Resting s)
    (hf : InitInv (first s)) : InitInv (admitted first s) :=
  admitted_cases (fun _ => hf) (fun _ => complete_init hc h)

/-- Every request begins at rest, and only CARD_INIT leaves it (R172). -/
theorem firstStep_init {s : State} (i : Instr) (hc : OutcomeCoded s) (h : Resting s) : InitInv (firstStep i s) := by
  cases i with
  | initBus => exact initInv_within rfl hc h
  | select => exact admitted_init hc h (initInv_within rfl hc h)
  | deselect => exact admitted_init hc h (initInv_within rfl hc h)
  | xchg out => exact admitted_init hc h (driveBit_init (site := .raw) hc h)
  | sendCmd cmd arg crc win => exact admitted_init hc h (enterCommand_init (c := .host) hc h)
  | cardInit => exact admitted_init hc h (initInv_within rfl hc rfl)
  | fill => exact admitted_init hc h (driveBit_init (site := .raw) hc h)
  | goIdleState => exact admitted_init hc h (enterCommand_init (c := .host) hc h)
  | sendOpCond => exact admitted_init hc h (enterCommand_init (c := .host) hc h)
  | setBlocklen n => exact admitted_init hc h (enterCommand_init (c := .host) hc h)

/-- Settles O34: reset, acceptance and refusal leave the initialiser at rest, and every operation leaves its registers as the
place it goes to asks. -/
theorem stepKeepsInitInv : Obligations.StepKeepsInitInv := by
  intro s t hv hi h hstep
  rcases step_cases hstep with ⟨_, rfl⟩ | ⟨_, _, _, rfl⟩ | ⟨_, hc, w, ws, _, rfl⟩ |
    ⟨_, op, hc, ⟨_, hd, rfl⟩ | ⟨i, _, hp, rfl⟩ | ⟨_, g, _, hp, rfl⟩⟩
  · exact initInv_start rfl nofun (.inl ⟨rfl, rfl⟩)
  · exact h
  · exact initInv_start rfl h.coded (h.at_start (hi.point_of_idle hc))
  · exact complete_init h.coded (h.at_start (hi.point_of_illegal hc hd))
  · exact firstStep_init i h.coded (h.at_start hp)
  · exact resume_init hv h.coded (h.at_place hp)

end Sys2Proof.Machine
end

section
/-! The byte-level view of an exchange's events (20_memory.md R69, 40_transport.md R116), and with it of a whole command's
(30_encoding.md R92, 41_command_channel.md R146). -/

namespace Sys2Proof.Machine

/-! ### The view of a sequence's events -/

/-- A byte is what its own bits make, most significant first (R62). -/
theorem byteOfBits_getLsbD (v : Byte) :
    byteOfBits [v.getLsbD 7, v.getLsbD 6, v.getLsbD 5, v.getLsbD 4, v.getLsbD 3, v.getLsbD 2, v.getLsbD 1, v.getLsbD 0] = v := by
  refine BitVec.eq_of_getLsbD_eq fun j hj => ?_
  have places : j = 7 ∨ j = 6 ∨ j = 5 ∨ j = 4 ∨ j = 3 ∨ j = 2 ∨ j = 1 ∨ j = 0 := by omega
  rw [getLsbD_byteOfBits _ _ _ _ _ _ _ _ ⟨j, hj⟩]
  rcases places with h | h | h | h | h | h | h | h <;> subst h <;> rfl

/-- The events of one exchange are one byte of the view. -/
theorem byteView_exchangeEvents (out inn : Byte) (es : List Event) :
    byteView [] none (exchangeEvents out inn ++ es) = .xchg out inn :: byteView [] none es := by
  have bits : byteView [] none (exchangeEvents out inn ++ es) =
      .xchg
        (byteOfBits [out.getLsbD 7, out.getLsbD 6, out.getLsbD 5, out.getLsbD 4, out.getLsbD 3, out.getLsbD 2,
          out.getLsbD 1, out.getLsbD 0])
        (byteOfBits [inn.getLsbD 7, inn.getLsbD 6, inn.getLsbD 5, inn.getLsbD 4, inn.getLsbD 3, inn.getLsbD 2,
          inn.getLsbD 1, inn.getLsbD 0]) :: byteView [] none es := rfl
  rw [bits, byteOfBits_getLsbD, byteOfBits_getLsbD]

/-- A diagnostic event is no part of the view. -/
theorem byteView_diagEvent (acc : List (Bool × Bool)) (o : Option Bool) (enabled : Bool) (d : Diag) (es : List Event) :
    byteView acc o (diagEvent enabled d ++ es) = byteView acc o es := by
  cases enabled <;> rfl

/-- The frame's exchanges, one byte each (R92). -/
theorem byteView_frame (outs inns : List Byte) (es : List Event) :
    byteView [] none ((List.zipWith exchangeEvents outs inns).flatten ++ es) =
      List.zipWith ByteEvent.xchg outs inns ++ byteView [] none es := by
  induction outs generalizing inns with
  | nil => rfl
  | cons out outs ih =>
    cases inns with
    | nil => rfl
    | cons inn inns => simp [byteView_exchangeEvents, ih]

/-- The window's exchanges, one filler each (R146), whatever the diagnostics between them. -/
theorem byteView_window (enabled : Bool) (inns : List Byte) (es : List Event) :
    byteView [] none (inns.flatMap (fun b => exchangeEvents 0xFF#8 b ++ diagEvent enabled (.resp b)) ++ es) =
      inns.map (ByteEvent.xchg 0xFF#8) ++ byteView [] none es := by
  induction inns with
  | nil => rfl
  | cons inn inns ih => simp [byteView_exchangeEvents, byteView_diagEvent, ih]

/-- A whole command in the view: asserted, the frame, the window, released. -/
theorem byteView_commandEvents (enabled : Bool) (k : Command) (l : Line) :
    byteView [] none (commandEvents enabled k l) =
      [.cs false] ++ List.zipWith ByteEvent.xchg k.frame (l.bytes 6) ++
        ((l.skip 48).bytes k.win.toNat).map (ByteEvent.xchg 0xFF#8) ++ [.cs true] := by
  have ended : byteView [] none (diagEvent enabled .done) = [] := by
    cases enabled <;> rfl
  simp only [commandEvents, List.append_assoc, List.cons_append, List.nil_append, byteView_diagEvent, byteView,
    byteView_frame, byteView_window, ended]

/-! ### A command from its beginning to its completion -/

/-- The events a run has added are those on top of the trace. -/
theorem eventsSince_of_trace {s t : State} {es : List Event} (h : t.trace = es.reverse ++ s.trace) :
    eventsSince s t = es := by
  simp [eventsSince, State.history, h]

/-- A pseudo-instruction begins as its expansion does (30_encoding.md R97). -/
theorem firstStep_expand (i : Instr) (s : State) : firstStep i.expand s = firstStep i s := by
  cases i <;> rfl

/-- A configured block begins a SEND_CMD with `SendCommand` (R140). -/
theorem firstStep_sendCmd {i : Instr} {cmd : Byte} {arg : Arg} {crc win : Byte} {s : State}
    (hi : i.expand = .sendCmd cmd arg crc win) (hc : s.configured = true) :
    firstStep i s = enterCommand .host ⟨cmd, arg, crc, win⟩ s := by
  rw [← firstStep_expand, hi]
  exact admitted_configured hc

/-- A configured block begins an XCHG with its exchange (R114). -/
theorem firstStep_xchg {i : Instr} {out : Byte} {s : State} (hi : i.expand = .xchg out) (hc : s.configured = true) :
    firstStep i s = beginExchange out .raw s := by
  rw [← firstStep_expand, hi]
  exact admitted_configured hc

/-- A whole `SendCommand` of the host's adds its own events and its completion. -/
theorem hostCommand_run (i : Instr) (k : Command) (s : State) (hd : DoneAtOnce s) (hm : MisoGiven s) :
    ∃ t, Reaches i (enterCommand .host k s) t ∧ t.ctl = .idle ∧
      eventsSince s t = commandEvents s.cfg.diagEnable k s.miso ++ [.complete (response .ok (commandResult k s.miso))] := by
  obtain ⟨u, _, _, _, _, _, htrace, hreach⟩ := command_run i .host k s hd hm
  exact ⟨complete .ok (commandResult k s.miso) u, hreach _ (.refl i _), rfl, eventsSince_of_trace (by simp [htrace])⟩

/-- Settles O48: the command adds its own events and a completion (`hostCommand_run`), and the completion is no part of their
view (`byteView_commandEvents`). -/
theorem sendCmdBytesOnTheWire : Obligations.SendCmdBytesOnTheWire := by
  intro i cmd arg crc win s hi hp hc hd hm
  obtain ⟨t, hreach, hidle, hevents⟩ := hostCommand_run i ⟨cmd, arg, crc, win⟩ s hd hm
  obtain ⟨n, hn⟩ := Reaches.start hp (firstStep_sendCmd hi hc ▸ hreach)
  refine ⟨n, t, hn, hidle, ?_⟩
  rw [hevents, byteView_complete, byteView_commandEvents]
  rfl

end Sys2Proof.Machine
end

section
/-! An XCHG's place in the byte-level view, in every environment (20_memory.md R69, 40_transport.md R116 to R118): at each place
of its sequence the pairs the view has taken, and what the request has added when it answers. -/

namespace Sys2Proof.Machine

/-! ### What a history has shown -/

/-- Whatever happens next, the history of `s` shows the bytes `bs`, and leaves the pairs `acc` and the MOSI level `o` of a byte in
progress. -/
def State.Shows (s : State) (bs : List ByteEvent) (acc : List (Bool × Bool)) (o : Option Bool) : Prop :=
  ∀ es, byteView [] none (s.history ++ es) = bs ++ byteView acc o es

theorem State.Shows.bytesOnWire {s : State} {bs : List ByteEvent} {acc : List (Bool × Bool)} {o : Option Bool}
    (h : s.Shows bs acc o) : s.bytesOnWire = bs := by
  simpa [State.bytesOnWire, byteView] using h []

/-- An acceptance leaves no byte in progress. -/
theorem shows_accept {s : State} {w : Request} {es : List Event} (h : s.trace = .accept w :: es) :
    s.Shows s.bytesOnWire [] none := by
  intro ys
  simp only [State.bytesOnWire, State.history, h, List.reverse_cons, List.append_assoc, List.singleton_append,
    byteView_accept, byteView, List.append_nil]

/-- An event that completes no byte. -/
theorem State.Shows.record {s t : State} {bs : List ByteEvent} {acc acc' : List (Bool × Bool)} {o o' : Option Bool} {e : Event}
    (h : s.Shows bs acc o) (ht : t.trace = e :: s.trace) (he : ∀ es, byteView acc o (e :: es) = byteView acc' o' es) :
    t.Shows bs acc' o' := by
  intro es
  have hist : t.history ++ es = s.history ++ e :: es := by simp [State.history, ht]
  rw [hist, h, he]

/-- An event that completes a byte. -/
theorem State.Shows.recordByte {s t : State} {bs : List ByteEvent} {b : ByteEvent} {acc : List (Bool × Bool)} {o : Option Bool}
    {e : Event} (h : s.Shows bs acc o) (ht : t.trace = e :: s.trace)
    (he : ∀ es, byteView acc o (e :: es) = b :: byteView [] none es) : t.Shows (bs ++ [b]) [] none := by
  intro es
  have hist : t.history ++ es = s.history ++ e :: es := by simp [State.history, ht]
  rw [hist, h, he, List.append_assoc, List.singleton_append]

/-! ### The pairs of a byte in progress -/

/-- The first `n` pairs of the byte pair `(out, inn)`, most significant first. -/
def bitPairs (out inn : Byte) (n : Nat) : List (Bool × Bool) :=
  (List.range n).map fun j => (out.getLsbD (7 - j), inn.getLsbD (7 - j))

@[simp] theorem length_bitPairs (out inn : Byte) (n : Nat) : (bitPairs out inn n).length = n := by
  simp [bitPairs]

theorem byteOfBits_bitPairs (out inn : Byte) :
    byteOfBits ((bitPairs out inn 8).map Prod.fst) = out ∧ byteOfBits ((bitPairs out inn 8).map Prod.snd) = inn :=
  ⟨byteOfBits_getLsbD out, byteOfBits_getLsbD inn⟩

/-- The sample of bit `i` is the next pair after those of the higher bits, which it leaves. -/
theorem bitPairs_sample (out inn : Byte) (i : Fin 8) (b : Bool) :
    bitPairs out inn (7 - i) ++ [(bitOf out i, b)] = bitPairs out (putBit inn i b) (8 - i) := by
  have hi := i.isLt
  have higher : bitPairs out (putBit inn i b) (7 - i) = bitPairs out inn (7 - i) := by
    refine List.map_congr_left fun j hj => ?_
    have hj : j < 7 - i := List.mem_range.mp hj
    rw [getLsbD_putBit, if_neg (by omega)]
  have own : 7 - (7 - i.val) = i := by omega
  rw [← higher, show 8 - i.val = 7 - i + 1 by omega]
  simp [bitPairs, List.range_succ, getLsbD_putBit, bitOf, own]

/-- A sample that leaves the first `n` pairs, not yet a byte. -/
theorem byteView_sample {acc : List (Bool × Bool)} {o i : Bool} {out inn : Byte} {n : Nat}
    (h : acc ++ [(o, i)] = bitPairs out inn n) (hn : n ≠ 8) (es : List Event) :
    byteView acc (some o) (.sample .miso i :: es) = byteView (bitPairs out inn n) none es := by
  simp [byteView, h, hn]

/-- The sample that completes a byte. -/
theorem byteView_lastSample {acc : List (Bool × Bool)} {o i : Bool} {out inn : Byte} {n : Nat}
    (h : acc ++ [(o, i)] = bitPairs out inn n) (hn : n = 8) (es : List Event) :
    byteView acc (some o) (.sample .miso i :: es) = .xchg out inn :: byteView [] none es := by
  subst hn
  simp [byteView, h, byteOfBits_bitPairs]

/-! ### The places of an XCHG -/

/-- Bit `bit_idx` stands on MOSI, the higher ones are paired. -/
def BitDriven (out : Byte) (bs : List ByteEvent) (s : State) : Prop :=
  s.txSr = out ∧ s.Shows bs (bitPairs out s.rxSr (7 - s.bitIdx)) (some (bitOf out s.bitIdx))

/-- Bit `bit_idx` is paired too; after the last one the byte is shown. -/
def BitSampled (out : Byte) (bs : List ByteEvent) (s : State) : Prop :=
  s.txSr = out ∧ (s.bitIdx ≠ 0 → s.Shows bs (bitPairs out s.rxSr (8 - s.bitIdx)) none) ∧
  (s.bitIdx = 0 → s.Shows (bs ++ [.xchg out s.rxSr]) [] none)

/-- The places of `XCHG out` and what the history shows at each, `bs` before the request. -/
inductive Exchanging (out : Byte) (bs : List ByteEvent) (s : State) : Prop where
  | accepted (hp : s.point = .start) (hc : s.configured = true) (h : s.Shows bs [] none)
  | driven (x : XferStep) (hx : x ≠ .fall) (hp : s.point = .within (.xfer x .raw)) (h : BitDriven out bs s)
  | sampled (hp : s.point = .within (.xfer .fall .raw)) (h : BitSampled out bs s)
  | fallen (hp : s.point = .within (.fallen .raw)) (h : BitSampled out bs s)
  | cut (acc : List (Bool × Bool)) (o : Option Bool) (hp : s.point = .within (.timedOut .raw)) (h : s.Shows bs acc o)

/-- The request `i` runs with no reset and no further word to disturb it. -/
def RunsAlone (i : Instr) (s : State) : Prop :=
  s.resetLine = false ∧ s.host = [] ∧ (∃ op, s.ctl = .busy op) ∧ decode s.req = .ok i

/-- The request has answered and nothing follows it: with OK its byte is shown, with TIMEOUT none is (log 17). -/
def XchgAnswered (out : Byte) (bs : List ByteEvent) (s : State) : Prop :=
  s.resetLine = false ∧ s.host = [] ∧ s.ctl = .idle ∧
  ((∃ r, s.resp = response .ok r ∧ s.bytesOnWire = bs ++ [.xchg out r]) ∨
    s.resp = response .timeout 0 ∧ s.bytesOnWire = bs)

/-- `XCHG out` undisturbed, up to its answer and after it. -/
def XchgRun (out : Byte) (bs : List ByteEvent) (s : State) : Prop :=
  RunsAlone (.xchg out) s ∧ Exchanging out bs s ∨ XchgAnswered out bs s

variable {out : Byte} {bs : List ByteEvent} {s : State}

theorem RunsAlone.step_start {i : Instr} (h : RunsAlone i s) (hp : s.point = .start) :
    step s = .next (firstStep i s) := by
  obtain ⟨hr, _, ⟨op, hc⟩, hd⟩ := h
  exact (step_of_busy hr hc hd).trans (exec_at_start i hp)

theorem RunsAlone.step_within {i : Instr} {g : Seg} (h : RunsAlone i s) (hp : s.point = .within g) :
    step s = .next (resume g s) := by
  obtain ⟨hr, _, ⟨op, hc⟩, hd⟩ := h
  exact (step_of_busy hr hc hd).trans (exec_within i hp)

theorem RunsAlone.complete_ok {r : Byte} (h : RunsAlone (.xchg out) s) (hs : s.Shows (bs ++ [.xchg out r]) [] none) :
    XchgRun out bs (complete .ok r s) := by
  obtain ⟨hr, hh, _, _⟩ := h
  exact .inr ⟨hr, hh, rfl, .inl ⟨r, rfl, (hs.record (acc' := []) (o' := none) rfl fun _ => rfl).bytesOnWire⟩⟩

theorem RunsAlone.complete_timeout {acc : List (Bool × Bool)} {o : Option Bool} (h : RunsAlone (.xchg out) s)
    (hs : s.Shows bs acc o) : XchgRun out bs (complete .timeout 0 s) := by
  obtain ⟨hr, hh, _, _⟩ := h
  exact .inr ⟨hr, hh, rfl, .inr ⟨rfl, (hs.record (acc' := []) (o' := none) rfl fun _ => rfl).bytesOnWire⟩⟩

/-! ### The operations of the exchange -/

theorem driveBit_xchg {i : Fin 8} (hr : RunsAlone (.xchg out) s) (htx : s.txSr = out)
    (hs : s.Shows bs (bitPairs out s.rxSr (7 - i)) none) : XchgRun out bs (driveBit i .raw s) :=
  .inl ⟨hr, .driven .rise nofun rfl ⟨htx, hs.record rfl fun _ => htx ▸ rfl⟩⟩

/-- A poll, whatever it reads, is no part of the view. -/
theorem pollDone_xchg (hr : RunsAlone (.xchg out) s) (h : BitDriven out bs s) : XchgRun out bs (pollDone .raw s) := by
  have polled (x : XferStep) (hx : x ≠ .fall) : XchgRun out bs ((pinRead .xferDone s).goto (.xfer x .raw)) :=
    .inl ⟨hr, .driven x hx rfl ⟨h.1, h.2.record rfl fun _ => rfl⟩⟩
  exact pollDone_cases (fun _ => polled .sample nofun) (fun _ => polled .repoll nofun)

theorem pollAgain_xchg (hr : RunsAlone (.xchg out) s) (h : BitDriven out bs s) : XchgRun out bs (pollAgain .raw s) :=
  pollAgain_cases (fun _ => pollDone_xchg hr h) (fun _ _ _ => pollDone_xchg (s := { s with pollCnt := _ }) hr h)
    (fun _ _ _ => .inl ⟨hr, .cut _ _ rfl (h.2.record rfl fun _ => rfl)⟩)

/-- The sample pairs the bit; the one of bit 0 completes the byte. -/
theorem sampleMiso_xchg (hr : RunsAlone (.xchg out) s) (h : BitDriven out bs s) : XchgRun out bs (sampleMiso .raw s) := by
  obtain ⟨htx, hs⟩ := h
  have pairs := bitPairs_sample out s.rxSr s.bitIdx (inputLevel .miso s)
  refine .inl ⟨hr, .sampled rfl ⟨htx, fun hi => ?_, fun hi => ?_⟩⟩
  · have hi : s.bitIdx ≠ 0 := hi
    exact hs.record rfl (byteView_sample pairs (by omega))
  · have hi : s.bitIdx = 0 := hi
    exact hs.recordByte rfl (byteView_lastSample pairs (by omega))

theorem engineStep_xchg {x : XferStep} (hr : RunsAlone (.xchg out) s) (hx : x ≠ .fall) (h : BitDriven out bs s) :
    XchgRun out bs (engineStep x .raw s) := by
  have ⟨htx, hs⟩ := h
  cases x with
  | rise => exact .inl ⟨hr, .driven .settle nofun rfl ⟨htx, hs.record rfl fun _ => rfl⟩⟩
  | settle => exact .inl ⟨hr, .driven .poll nofun rfl ⟨htx, hs.record rfl fun _ => rfl⟩⟩
  | poll => exact pollDone_xchg (s := { s with eng := .poll, pollCnt := _ }) hr h
  | repoll => exact pollAgain_xchg hr h
  | sample => exact sampleMiso_xchg hr h
  | fall => exact absurd rfl hx

/-- SCLK falls after the sample: no part of the view. -/
theorem fall_xchg (hr : RunsAlone (.xchg out) s) (h : BitSampled out bs s) :
    XchgRun out bs (engineStep .fall .raw s) := by
  obtain ⟨htx, hmore, hlast⟩ := h
  exact .inl ⟨hr, .fallen rfl
    ⟨htx, fun hi => (hmore hi).record rfl fun _ => rfl, fun hi => (hlast hi).record rfl fun _ => rfl⟩⟩

/-- The bit below a bit finds one pair more above it. -/
theorem pairs_above_pred {i : Fin 8} (h : i ≠ 0) : 7 - (i - 1).val = 8 - i.val := by
  revert i
  decide

theorem bitDone_xchg (hr : RunsAlone (.xchg out) s) (h : BitSampled out bs s) : XchgRun out bs (bitDone .raw s) := by
  obtain ⟨htx, hmore, hlast⟩ := h
  exact bitDone_cases (fun hi => driveBit_xchg hr htx (pairs_above_pred hi ▸ hmore hi))
    (fun hi => RunsAlone.complete_ok (s := { s with eng := .idle }) hr (hlast hi))

/-- Every step of an undisturbed XCHG keeps what its place says of the view; once it has answered nothing happens. -/
theorem step_keeps_xchgRun {t : State} (h : XchgRun out bs s) (hstep : step s = .next t) : XchgRun out bs t := by
  rcases h with ⟨hr, hx⟩ | h
  · cases hx with
    | accepted hp hc hs =>
      cases (hr.step_start hp).symm.trans hstep
      rw [firstStep_xchg rfl hc]
      exact driveBit_xchg (s := { s with txSr := out }) hr rfl hs
    | driven x hx hp hb =>
      cases (hr.step_within hp).symm.trans hstep
      exact engineStep_xchg hr hx hb
    | sampled hp hb =>
      cases (hr.step_within hp).symm.trans hstep
      exact fall_xchg hr hb
    | fallen hp hb =>
      cases (hr.step_within hp).symm.trans hstep
      exact bitDone_xchg hr hb
    | cut acc o hp hs =>
      cases (hr.step_within hp).symm.trans hstep
      exact RunsAlone.complete_timeout (s := { s with eng := .idle, rxSr := _, freeCount := _ }) hr hs
  · have ⟨hreset, hhost, hidle, _⟩ := h
    have waits : step s = .next s := by rw [step_of_idle hreset hidle, takeRequest, hhost]
    cases waits.symm.trans hstep
    exact .inr h

/-! ### The whole request -/

/-- What every step keeps, a run keeps. -/
theorem run_keeps {P : State → Prop} (hstep : ∀ s t, P s → step s = .next t → P t) {n : Nat} {s t : State} (hs : P s)
    (h : run n s = .next t) : P t := by
  induction n generalizing s with
  | zero =>
    cases h
    exact hs
  | succ n ih =>
    simp only [run] at h
    split at h
    · rename_i u hu
      exact ih (hstep s u hs hu) h
    · cases h
    · cases h

theorem response_status (st : Status) (data : Byte) : (response st data).extractLsb' 8 8 = st.code :=
  BitVec.extractLsb'_append_eq_left

theorem response_data (st : Status) (data : Byte) : (response st data).extractLsb' 0 8 = data :=
  BitVec.extractLsb'_append_eq_right

/-- Settles O60: completing at first polls, the request adds its exchange's events, one byte (`byteView_exchangeEvents`); in any
environment each step keeps what its place says of the view (`step_keeps_xchgRun`), and the response's status tells the two
answers apart. -/
theorem xchgIsOneByteOnTheWire : Obligations.XchgIsOneByteOnTheWire := by
  refine ⟨fun i out s w es hi _ hp hc ht hd hm => ?_, fun s t op out n es hr hh hctl hp hc hdec ht hrun hidle => ?_⟩
  · have reach : Reaches i s (complete .ok s.miso.byte (exchanged out .raw s)) :=
      .start hp (firstStep_xchg hi hc ▸ .exchange hd hm (.refl i _))
    obtain ⟨n, hn⟩ := reach
    refine ⟨n, _, hn, rfl, ?_⟩
    have hist : (complete .ok s.miso.byte (exchanged out .raw s)).history =
        s.history ++ (exchangeEvents out s.miso.byte ++ [.complete (response .ok s.miso.byte)]) := by
      simp [State.history, exchanged, afterExchange]
    rw [State.bytesOnWire, hist, shows_accept ht, byteView_exchangeEvents]
    rfl
  · have start : XchgRun out s.bytesOnWire s := .inl ⟨⟨hr, hh, ⟨op, hctl⟩, hdec⟩, .accepted hp hc (shows_accept ht)⟩
    rcases run_keeps (fun _ _ => step_keeps_xchgRun) start hrun with
      ⟨⟨_, _, ⟨_, hbusy⟩, _⟩, _⟩ | ⟨_, _, _, ⟨r, hresp, hview⟩ | ⟨hresp, hview⟩⟩
    · cases hidle.symm.trans hbusy
    · rw [hresp, response_data]
      refine ⟨fun _ => hview, fun htimeout => ?_⟩
      have status := (response_status .ok r).symm.trans (congrArg (BitVec.extractLsb' 8 8) htimeout)
      exact absurd status (by decide)
    · refine ⟨fun hok => ?_, fun _ => hview⟩
      rw [hresp, response_status] at hok
      exact absurd hok (by decide)

end Sys2Proof.Machine
end

section
/-! The decoder format by format (30_encoding.md R81 to R91), and from it both round trips, the reserved opcodes and the reserved
bits. -/

namespace Sys2Proof

/-- The format N requests and their opcodes (R81, R83). -/
def formatN : List (Byte × Instr) :=
  [(0x01#8, .initBus), (0x02#8, .select), (0x03#8, .deselect), (0x06#8, .cardInit)]

/-! ### What the opcode decides -/

theorem decode_formatN {op : Byte} {i : Instr} {w : Request} (hi : (op, i) ∈ formatN) (hw : opcodeField w = op) :
    decode w = decodeN i w := by
  simp only [formatN, List.mem_cons, Prod.mk.injEq, List.not_mem_nil, or_false] at hi
  rcases hi with ⟨rfl, rfl⟩ | ⟨rfl, rfl⟩ | ⟨rfl, rfl⟩ | ⟨rfl, rfl⟩ <;> simp [decode, hw]

theorem decode_formatX {w : Request} (hw : opcodeField w = 0x04#8) : decode w = decodeX w := by
  simp [decode, hw]

theorem decode_formatC {w : Request} (hw : opcodeField w = 0x05#8) : decode w = .ok (decodeC w) := by
  simp [decode, hw]

theorem decode_reserved {w : Request} (hw : (opcodeField w).toNat = 0 ∨ 7 ≤ (opcodeField w).toNat) :
    decode w = .error (.reservedOpcode (opcodeField w)) := by
  have notCore (op : Byte) (hop : 1 ≤ op.toNat ∧ op.toNat ≤ 6) : opcodeField w ≠ op := by
    rintro rfl
    omega
  simp (disch := decide) only [decode, notCore, if_false]

/-! ### What the reserved bits decide -/

theorem decodeN_ok {i : Instr} {w : Request} (h : reservedN w = 0) : decodeN i w = .ok i := if_pos h

theorem decodeN_error {i : Instr} {w : Request} (h : reservedN w ≠ 0) :
    decodeN i w = .error (.reservedBits (opcodeField w)) := if_neg h

theorem decodeX_ok {w : Request} (h : reservedX w = 0) : decodeX w = .ok (.xchg (lowField w)) := if_pos h

theorem decodeX_error {w : Request} (h : reservedX w ≠ 0) : decodeX w = .error (.reservedBits (opcodeField w)) := if_neg h

/-! ### The round trips -/

theorem decode_encodeN {op : Byte} {i : Instr} (hi : (op, i) ∈ formatN) : decode (encodeN op) = .ok i :=
  (decode_formatN hi (opcodeField_encodeN op)).trans (decodeN_ok (reservedN_encodeN op))

theorem decode_encodeX (out : Byte) : decode (encodeX 0x04#8 out) = .ok (.xchg out) := by
  rw [decode_formatX (opcodeField_encodeX _ _), decodeX_ok (reservedX_encodeX _ _), lowField_encodeX]

theorem decode_encodeC (cmd : Byte) (arg : Arg) (crc win : Byte) :
    decode (encodeC 0x05#8 cmd arg crc win) = .ok (.sendCmd cmd arg crc win) := by
  rw [decode_formatC (opcodeField_encodeC _ _ _ _ _), decodeC, cmdField_encodeC, argField_encodeC, crcField_encodeC,
    lowField_encodeC]

theorem expand_wellFormed (i : Instr) : i.expand.wellFormed = true := by
  cases i <;> rfl

/-- A pseudo-instruction's word is the word of the request it stands for (R97). -/
theorem encode_expand (i : Instr) : encode i.expand = encode i := by
  cases i with
  | fill => decide
  | goIdleState => decide
  | sendOpCond => decide
  | setBlocklen n => exact (setBlocklen_word n).symm
  | _ => rfl

theorem decode_encode {i : Instr} (h : i.wellFormed = true) : decode (encode i) = .ok i := by
  cases i with
  | initBus => exact decode_encodeN (by decide)
  | select => exact decode_encodeN (by decide)
  | deselect => exact decode_encodeN (by decide)
  | cardInit => exact decode_encodeN (by decide)
  | xchg out => exact decode_encodeX out
  | sendCmd cmd arg crc win => exact decode_encodeC cmd arg crc win
  | fill => cases h
  | goIdleState => cases h
  | sendOpCond => cases h
  | setBlocklen n => cases h

/-- Settles O1: an instruction's word is its expansion's (`encode_expand`), and the expansion is a core request, which decodes to
itself (`decode_encode`). -/
theorem decodeOfEncodeIsTheExpansion : Obligations.DecodeOfEncodeIsTheExpansion := by
  refine fun i => ⟨?_, decode_encode⟩
  rw [← encode_expand]
  exact decode_encode (expand_wellFormed i)

/-- Settles O2: in each case a word that decodes is its own fields put together, those its format reserves being 0. -/
theorem encodeOfDecodeIsTheWord : Obligations.EncodeOfDecodeIsTheWord := by
  intro w i h
  rcases decode_cases h with ⟨hop, hres, rfl⟩ | ⟨hop, hres, rfl⟩ | ⟨hop, hres, rfl⟩ | ⟨hop, hres, rfl⟩ | ⟨hop, rfl⟩ |
    ⟨hop, hres, rfl⟩
  · exact ⟨(congrArg encodeN hop).symm.trans (encodeN_fields w hres), rfl⟩
  · exact ⟨(congrArg encodeN hop).symm.trans (encodeN_fields w hres), rfl⟩
  · exact ⟨(congrArg encodeN hop).symm.trans (encodeN_fields w hres), rfl⟩
  · exact ⟨(congrArg (encodeX · _) hop).symm.trans (encodeX_fields w hres), rfl⟩
  · exact ⟨(congrArg (encodeC · _ _ _ _) hop).symm.trans (encodeC_fields w), rfl⟩
  · exact ⟨(congrArg encodeN hop).symm.trans (encodeN_fields w hres), rfl⟩

/-! ### The formats' own rules -/

/-- Settles O4: the opcode picks the format's decoder, which looks at the reserved bits. -/
theorem formatsNAndXReserveTheirBits : Obligations.FormatsNAndXReserveTheirBits := by
  refine fun w => ⟨fun op i hi hw => ⟨fun hres => ?_, fun hres => ?_⟩, fun hw => ⟨fun hres => ?_, fun hres => ?_⟩⟩
  · exact (decode_formatN hi hw).trans (decodeN_ok hres)
  · subst hw
    exact (decode_formatN hi rfl).trans (decodeN_error hres)
  · exact (decode_formatX hw).trans (decodeX_ok hres)
  · exact hw ▸ (decode_formatX hw).trans (decodeX_error hres)

/-- Settles O5: the fields the statement writes out are those `decode_reserved` and `decode_formatC` speak of. -/
theorem reservedOpcodesAndSendCmdWords : Obligations.ReservedOpcodesAndSendCmdWords :=
  fun _ => ⟨decode_reserved, decode_formatC⟩

/-- Settles O6: eleven closed words, each run through the decoder. -/
theorem exampleWordsDecode : Obligations.ExampleWordsDecode := by
  unfold Obligations.ExampleWordsDecode
  decide

end Sys2Proof
end

section
/-! The opcode table (INDEX.md): what a row asks of a word's fields, and that a row accepts exactly the words that decode to a
request of its opcode. -/

namespace Sys2Proof

/-! ### A word and its fields -/

/-- Two words are equal when their opcodes, the bits that format X reserves and their low bytes are. -/
theorem request_ext_iff {v w : Request} :
    v = w ↔ opcodeField v = opcodeField w ∧ reservedX v = reservedX w ∧ lowField v = lowField w := by
  refine ⟨fun h => h ▸ ⟨rfl, rfl, rfl⟩, fun ⟨hop, hres, hlow⟩ => BitVec.eq_of_toNat_eq ?_⟩
  have hop := congrArg BitVec.toNat hop
  have hres := congrArg BitVec.toNat hres
  have hlow := congrArg BitVec.toNat hlow
  simp only [opcodeField, reservedX, lowField, BitVec.extractLsb'_toNat, Nat.shiftRight_eq_div_pow] at hop hres hlow
  omega

/-- The bits format N reserves are those format X reserves and the low byte. -/
theorem reservedN_eq_zero_iff {w : Request} : reservedN w = 0 ↔ reservedX w = 0 ∧ lowField w = 0 := by
  simp only [← BitVec.toNat_inj, reservedN, reservedX, lowField, BitVec.extractLsb'_toNat, Nat.shiftRight_eq_div_pow,
    BitVec.ofNat_eq_ofNat, BitVec.toNat_ofNat]
  omega

/-- A row compares each field of the word under the row's mask. -/
theorem accepts_iff_fields (r : TableRow) (w : Request) :
    r.accepts w = true ↔
      opcodeField w &&& opcodeField r.mask = opcodeField r.pattern ∧
      reservedX w &&& reservedX r.mask = reservedX r.pattern ∧
      lowField w &&& lowField r.mask = lowField r.pattern := by
  rw [TableRow.accepts, decide_eq_true_iff, request_ext_iff]
  simp only [opcodeField, reservedX, lowField, BitVec.extractLsb'_and]

/-! ### The rows -/

/-- The row of a format N request: every bit is fixed (R83). -/
def rowN (op : Byte) : TableRow := ⟨0xFFFFFFFFFFFFFFFF#64, encodeN op⟩

/-- The row of the format X request: every bit but the low byte's is fixed (R85). -/
def rowX (op : Byte) : TableRow := ⟨0xFFFFFFFFFFFFFF00#64, encodeX op 0⟩

/-- The row of the format C request: only the opcode is fixed (R87, R89). -/
def rowC (op : Byte) : TableRow := ⟨0xFF00000000000000#64, encodeN op⟩

theorem decoderTable_eq : decoderTable = [rowN 0x01#8, rowN 0x02#8, rowN 0x03#8, rowX 0x04#8, rowC 0x05#8, rowN 0x06#8] := by
  decide

theorem rowN_accepts {op : Byte} {w : Request} :
    (rowN op).accepts w = true ↔ opcodeField w = op ∧ reservedN w = 0 := by
  obtain ⟨mop, mres, mlow⟩ : opcodeField 0xFFFFFFFFFFFFFFFF#64 = BitVec.allOnes 8 ∧
      reservedX 0xFFFFFFFFFFFFFFFF#64 = BitVec.allOnes 48 ∧ lowField 0xFFFFFFFFFFFFFFFF#64 = BitVec.allOnes 8 := by decide
  obtain ⟨pres, plow⟩ := reservedN_eq_zero_iff.1 (reservedN_encodeN op)
  simp only [accepts_iff_fields, rowN, mop, mres, mlow, BitVec.and_allOnes, opcodeField_encodeN, pres, plow,
    reservedN_eq_zero_iff]

theorem rowX_accepts {op : Byte} {w : Request} :
    (rowX op).accepts w = true ↔ opcodeField w = op ∧ reservedX w = 0 := by
  obtain ⟨mop, mres, mlow⟩ : opcodeField 0xFFFFFFFFFFFFFF00#64 = BitVec.allOnes 8 ∧
      reservedX 0xFFFFFFFFFFFFFF00#64 = BitVec.allOnes 48 ∧ lowField 0xFFFFFFFFFFFFFF00#64 = 0#8 := by decide
  simp only [accepts_iff_fields, rowX, mop, mres, mlow, BitVec.and_allOnes, BitVec.and_zero, opcodeField_encodeX,
    reservedX_encodeX, lowField_encodeX, BitVec.ofNat_eq_ofNat, and_true]

theorem rowC_accepts {op : Byte} {w : Request} : (rowC op).accepts w = true ↔ opcodeField w = op := by
  obtain ⟨mop, mres, mlow⟩ : opcodeField 0xFF00000000000000#64 = BitVec.allOnes 8 ∧
      reservedX 0xFF00000000000000#64 = 0#48 ∧ lowField 0xFF00000000000000#64 = 0#8 := by decide
  obtain ⟨pres, plow⟩ := reservedN_eq_zero_iff.1 (reservedN_encodeN op)
  simp only [accepts_iff_fields, rowC, mop, mres, mlow, BitVec.and_allOnes, BitVec.and_zero, opcodeField_encodeN, pres, plow,
    BitVec.ofNat_eq_ofNat, and_true]

/-! ### The table and the decoder -/

/-- Every row fixes the opcode. -/
theorem opcodeField_of_accepts {r : TableRow} {w : Request} (hr : r ∈ decoderTable) (h : r.accepts w = true) :
    opcodeField w = opcodeField r.pattern := by
  have masked : ∀ r ∈ decoderTable, opcodeField r.mask = BitVec.allOnes 8 := by decide
  simpa only [masked r hr, BitVec.and_allOnes] using ((accepts_iff_fields r w).1 h).1

/-- No two rows have the same opcode. -/
theorem decoderTable_opcode_injective : ∀ r₁ ∈ decoderTable, ∀ r₂ ∈ decoderTable,
    opcodeField r₁.pattern = opcodeField r₂.pattern → r₁ = r₂ := by
  decide

theorem decodes_of_rowN {op : Byte} {i : Instr} {w : Request} (hi : (op, i) ∈ formatN) (h : (rowN op).accepts w = true) :
    ∃ i, decode w = .ok i := by
  obtain ⟨hop, hres⟩ := rowN_accepts.1 h
  exact ⟨i, (decode_formatN hi hop).trans (decodeN_ok hres)⟩

theorem decodes_of_accepts {r : TableRow} {w : Request} (hr : r ∈ decoderTable) (h : r.accepts w = true) :
    ∃ i, decode w = .ok i := by
  simp only [decoderTable_eq, List.mem_cons, List.not_mem_nil, or_false] at hr
  rcases hr with rfl | rfl | rfl | rfl | rfl | rfl
  · exact decodes_of_rowN (i := .initBus) (by decide) h
  · exact decodes_of_rowN (i := .select) (by decide) h
  · exact decodes_of_rowN (i := .deselect) (by decide) h
  · obtain ⟨hop, hres⟩ := rowX_accepts.1 h
    exact ⟨_, (decode_formatX hop).trans (decodeX_ok hres)⟩
  · exact ⟨_, decode_formatC (rowC_accepts.1 h)⟩
  · exact decodes_of_rowN (i := .cardInit) (by decide) h

theorem accepts_of_decodes {w : Request} {i : Instr} (h : decode w = .ok i) :
    ∃ r ∈ decoderTable, r.accepts w = true := by
  rcases decode_cases h with ⟨hop, hres, _⟩ | ⟨hop, hres, _⟩ | ⟨hop, hres, _⟩ | ⟨hop, hres, _⟩ | ⟨hop, _⟩ | ⟨hop, hres, _⟩
  · exact ⟨rowN 0x01#8, by decide, rowN_accepts.2 ⟨hop, hres⟩⟩
  · exact ⟨rowN 0x02#8, by decide, rowN_accepts.2 ⟨hop, hres⟩⟩
  · exact ⟨rowN 0x03#8, by decide, rowN_accepts.2 ⟨hop, hres⟩⟩
  · exact ⟨rowX 0x04#8, by decide, rowX_accepts.2 ⟨hop, hres⟩⟩
  · exact ⟨rowC 0x05#8, by decide, rowC_accepts.2 hop⟩
  · exact ⟨rowN 0x06#8, by decide, rowN_accepts.2 ⟨hop, hres⟩⟩

/-- Settles O3: a row that accepts a word has the word's opcode (`opcodeField_of_accepts`), and so has the instruction the word
decodes to (`decode_opcode`); two rows of one opcode are one row. -/
theorem decoderAgreesWithTheOpcodeTable : Obligations.DecoderAgreesWithTheOpcodeTable := by
  refine fun w => ⟨fun r₁ h₁ r₂ h₂ a₁ a₂ => ?_, fun i hd => ?_, fun r hr ha => ?_⟩
  · exact decoderTable_opcode_injective r₁ h₁ r₂ h₂
      ((opcodeField_of_accepts h₁ a₁).symm.trans (opcodeField_of_accepts h₂ a₂))
  · obtain ⟨r, hr, ha⟩ := accepts_of_decodes hd
    exact ⟨r, hr, ha, (opcodeField_of_accepts hr ha).symm.trans (decode_opcode hd).symm⟩
  · obtain ⟨i, hd⟩ := decodes_of_accepts hr ha
    exact ⟨i, hd, (decode_opcode hd).trans (opcodeField_of_accepts hr ha)⟩

end Sys2Proof
end

section
/-! The assembler's width check (30_encoding.md R96). -/

namespace Sys2Proof.Machine

/-- A computation that takes a fitted operand goes on with it, or fails at the operand. -/
theorem fit_bind {α : Type} {n v : Nat} (f : BitVec n → Option α) :
    (fit n v).bind f = if v < 2 ^ n then f (BitVec.ofNat n v) else none := by
  unfold fit
  split <;> rfl

theorem fit_map {α : Type} {n v : Nat} (f : BitVec n → α) :
    (fit n v).map f = if v < 2 ^ n then some (f (BitVec.ofNat n v)) else none := by
  rw [Option.map_eq_bind]
  exact fit_bind _

/-- Settles O7: SEND_CMD's four operands are checked one after the other (`fit_bind`), so each has to fit. -/
theorem assemblerChecksOperandWidths : Obligations.AssemblerChecksOperandWidths := by
  refine ⟨fun v => fit_map Instr.xchg, fun v => fit_map Instr.setBlocklen, fun c a k n => ?_⟩
  have checks : assemble "SEND_CMD" [c, a, k, n] = (fit 8 c).bind fun cmd => (fit 32 a).bind fun arg =>
      (fit 8 k).bind fun crc => (fit 8 n).bind fun win => some (.sendCmd cmd arg crc win) := rfl
  simp only [checks, fit_bind, ite_and]

end Sys2Proof.Machine
end

section
/-! The step as the handshake drives it (30_encoding.md R82, R84, 70_reset_and_hazards.md R241), and how SEND_CMD begins
(41_command_channel.md R143, R154). -/

namespace Sys2Proof.Machine

/-! ### Acceptance -/

/-- Settles O10: while idle a step takes the next word or waits; a running request's step goes on or answers (`busy_step_goes`),
which leaves the host's words and records no acceptance. -/
theorem acceptanceOnlyWhileIdle : Obligations.AcceptanceOnlyWhileIdle := by
  refine ⟨fun s w ws hr hc hh => ?_, fun s t op hr hc h => ?_, fun s hr hc hh => ?_⟩
  · rw [step_of_idle hr hc, takeRequest, hh]
    rfl
  · obtain ⟨_, ⟨_, hhost, hreq, _, _, _, _, _, e, htrace, he, _⟩ | ⟨_, hhost, hreq, _, _, htrace, _⟩⟩ :=
      busy_step_goes hr hc h
    · refine ⟨hhost, hreq, fun w hw => ?_⟩
      obtain rfl : e = .accept w := (List.cons.inj (htrace.symm.trans hw)).1
      cases he
    · refine ⟨hhost, hreq, fun w hw => ?_⟩
      cases (List.cons.inj (htrace.symm.trans hw)).1
  · rw [step_of_idle hr hc, takeRequest, hh]

/-! ### The request that runs -/

theorem decode_of_decodeTableWord {nbits w : Nat} {i : Instr} (h : decodeTableWord nbits w = some i) :
    decode (BitVec.ofNat 64 (w % 2 ^ nbits)) = .ok i := by
  unfold decodeTableWord at h
  split at h
  · cases hd : decode (BitVec.ofNat 64 (w % 2 ^ nbits)) with
    | ok j => simpa [hd, Except.toOption] using h
    | error e => simp [hd, Except.toOption] at h
  · cases h

/-- Settles O8: `withFetchWord` is a busy block, reset not asserted, that holds the word. -/
theorem stepRunsTheDecodedRequest : Obligations.StepRunsTheDecodedRequest :=
  ⟨fun _ _ _ => step_of_busy, fun _ _ _ _ h => step_of_busy rfl rfl (decode_of_decodeTableWord h)⟩

/-- Settles O17: every arm of a pseudo-instruction is the arm of its expansion (`exec_expand`). -/
theorem pseudoInstructionsRunAsTheirExpansion : Obligations.PseudoInstructionsRunAsTheirExpansion :=
  fun i s => (exec_expand i s).symm

/-! ### SEND_CMD -/

theorem enterCommand_silent {c : Caller} {k : Command} {s : State} (h : s.cfg.diagEnable = false) :
    enterCommand c k s = selectCard c (latch k s) := emitThen_off h

theorem enterCommand_announced {c : Caller} {k : Command} {s : State} (h : s.cfg.diagEnable = true) :
    enterCommand c k s = ((latch k s).record (.diag (.cmd k.cmd))).goto (.announced c) := emitThen_on h

/-- Settles O45: the command is latched in the first step; the card is selected in that step, or after the step of an enabled
Emit. -/
theorem sendCmdBegins : Obligations.SendCmdBegins := by
  intro i cmd arg crc win s hi hp hc ch
  have first : firstStep i s = enterCommand .host ⟨cmd, arg, crc, win⟩ s := firstStep_sendCmd hi hc
  refine ⟨fun hd => ?_, fun hd => ⟨?_, ?_⟩⟩
  · rw [exec_at_start i hp, first, enterCommand_silent hd]
    rfl
  · rw [exec_at_start i hp, first, enterCommand_announced hd]
    rfl
  · rw [execTimes_start hp, first, enterCommand_announced hd, execTimes_within (g := .announced .host) rfl]
    rfl

end Sys2Proof.Machine
end

section
/-! What one step of a request leaves alone (40_transport.md R111 to R114, R119): INIT_BUS, SELECT and DESELECT write levels and
answer, XCHG and FILL move their bit engine. -/

namespace Sys2Proof.Machine

/-! ### One step of an instruction -/

/-- An instruction in its own sequence begins there or goes on from a place of it. -/
theorem exec_cases {i : Instr} {s t : State} (hs : StandsIn i s) (h : exec i s = .next t) :
    (s.point = .start ∧ t = firstStep i s) ∨ ∃ g, g.belongsTo i.opcode ∧ t = resume g s := by
  cases hp : s.point with
  | start =>
    cases (exec_at_start i hp).symm.trans h
    exact .inl ⟨rfl, rfl⟩
  | within g =>
    cases (exec_within i hp).symm.trans h
    exact .inr ⟨g, by simpa only [StandsIn, hp] using hs, rfl⟩

/-- The initialiser, the request, the configuration and the host's words stay in every request but CARD_INIT. -/
theorem exec_frame {i : Instr} {s t : State} (hop : i.opcode ≠ 0x06#8) (hs : StandsIn i s) (h : exec i s = .next t) :
    (t.initPhase = s.initPhase ∧ t.prefixLeft = s.prefixLeft ∧ t.attempt = s.attempt ∧ t.outcome = s.outcome ∧
      t.outcomeValid = s.outcomeValid) ∧ t.req = s.req ∧ t.cfg = s.cfg ∧ t.host = s.host := by
  obtain ⟨hgoes, hcfg, _⟩ : Goes i.opcode s t ∧ AddsOneEvent s t := by
    rcases exec_cases hs h with ⟨_, rfl⟩ | ⟨g, hg, rfl⟩
    · exact ⟨firstStep_goes i s, firstStep_addsOneEvent i s⟩
    · exact ⟨resume_goes s hg, resume_addsOneEvent g s⟩
  rcases hgoes with ⟨_, hhost, hreq, _, _, _, hview, _⟩ | ⟨_, hhost, hreq, _, _, _, _, hview, _⟩
  · exact ⟨initView_eq hop hview, hreq, hcfg, hhost⟩
  · exact ⟨initView_eq hop hview, hreq, hcfg, hhost⟩

/-- The places of the transport's requests. -/
theorem Seg.transport_cases {op : Byte} {g : Seg} (hg : g.belongsTo op) (h5 : op ≠ 0x05#8) (h6 : op ≠ 0x06#8) :
    (op = 0x01#8 ∧ g ∈ [.initSclk, .initMosi, .initDone]) ∨ ((op = 0x02#8 ∨ op = 0x03#8) ∧ g = .acknowledge) ∨
    (op = 0x04#8 ∧ ((∃ x, g = .xfer x .raw) ∨ g ∈ [.fallen .raw, .timedOut .raw])) := by
  have command (c : Caller) : op ≠ c.opcode := by
    cases c with
    | host => exact h5
    | idle => exact h6
    | opcond => exact h6
    | blocklen => exact h6
  have exchange {site : Site} (h : op = site.opcode) : op = 0x04#8 ∧ site = .raw := by
    cases site with
    | raw => exact ⟨h, rfl⟩
    | prefixByte => exact absurd h h6
    | frame c => exact absurd h (command c)
    | window c => exact absurd h (command c)
  cases g with
  | initSclk => exact .inl ⟨hg, by simp⟩
  | initMosi => exact .inl ⟨hg, by simp⟩
  | initDone => exact .inl ⟨hg, by simp⟩
  | acknowledge => exact .inr (.inl ⟨hg, rfl⟩)
  | xfer x site =>
    obtain ⟨hop, rfl⟩ := exchange hg
    exact .inr (.inr ⟨hop, .inl ⟨x, rfl⟩⟩)
  | fallen site =>
    obtain ⟨hop, rfl⟩ := exchange hg
    exact .inr (.inr ⟨hop, .inr (by simp)⟩)
  | timedOut site =>
    obtain ⟨hop, rfl⟩ := exchange hg
    exact .inr (.inr ⟨hop, .inr (by simp)⟩)
  | announced c => exact absurd hg (command c)
  | selected c => exact absurd hg (command c)
  | mirrored c => exact absurd hg (command c)
  | released c => exact absurd hg (command c)
  | ended c => exact absurd hg (command c)
  | aborted c => exact absurd hg (command c)
  | prefixStart => exact absurd hg h6
  | idleBackedOff => exact absurd hg h6
  | opcondBackedOff => exact absurd hg h6
  | reported r => exact absurd hg h6
  | abandoned => exact absurd hg h6

/-! ### INIT_BUS, SELECT and DESELECT -/

/-- Every step of INIT_BUS is a pin write or its completion (R111). -/
theorem initBus_cases {s t : State} (hs : StandsIn .initBus s) (h : exec .initBus s = .next t) :
    (∃ p v g, t = (pinWrite p v s).goto g) ∨ t = complete .ok 0 { s with configured := true } := by
  rcases exec_cases hs h with ⟨_, rfl⟩ | ⟨g, hg, rfl⟩
  · exact .inl ⟨.csN, true, .initSclk, rfl⟩
  · rcases Seg.transport_cases hg (by decide) (by decide) with ⟨_, hmem⟩ | ⟨hop, _⟩ | ⟨hop, _⟩
    · simp only [List.mem_cons, List.not_mem_nil, or_false] at hmem
      rcases hmem with rfl | rfl | rfl
      · exact .inl ⟨.sclk, false, .initMosi, rfl⟩
      · exact .inl ⟨.mosi, true, .initDone, rfl⟩
      · exact .inr rfl
    · exact absurd hop (by decide)
    · exact absurd hop (by decide)

/-- The request that writes `v` to `CS_N`: SELECT or DESELECT. -/
def csRequest (v : Bool) : Instr := if v then .deselect else .select

theorem csRequest_opcode (v : Bool) : (csRequest v).opcode = 0x02#8 ∨ (csRequest v).opcode = 0x03#8 := by
  cases v with
  | false => exact .inl rfl
  | true => exact .inr rfl

theorem firstStep_csRequest (v : Bool) (s : State) :
    firstStep (csRequest v) s = admitted (fun s => (pinWrite .csN v s).goto .acknowledge) s := by
  cases v <;> rfl

/-- Every step of SELECT and DESELECT is their write of `CS_N` or an answer (R112, R113). -/
theorem csRequest_cases {v : Bool} {s t : State} (hs : StandsIn (csRequest v) s) (h : exec (csRequest v) s = .next t) :
    t = (pinWrite .csN v s).goto .acknowledge ∨ ∃ st, t = complete st 0 s := by
  rcases exec_cases hs h with ⟨_, rfl⟩ | ⟨g, hg, rfl⟩
  · rw [firstStep_csRequest]
    cases hc : s.configured with
    | true => exact .inl (admitted_configured hc)
    | false => exact .inr ⟨.notConfigured, admitted_refused hc⟩
  · have hop := csRequest_opcode v
    rcases Seg.transport_cases hg (by grind) (by grind) with ⟨h1, _⟩ | ⟨_, rfl⟩ | ⟨h4, _⟩
    · simp [h1] at hop
    · exact .inr ⟨.ok, rfl⟩
    · simp [h4] at hop

/-- The bit engine, the command channel and the environment's lines, which no request touches but those that exchange bytes. -/
def LeavesEngine (s t : State) : Prop :=
  t.txSr = s.txSr ∧ t.rxSr = s.rxSr ∧ t.bitIdx = s.bitIdx ∧ t.eng = s.eng ∧ t.pollCnt = s.pollCnt ∧ t.chan = s.chan ∧
  t.miso = s.miso ∧ t.xferDone = s.xferDone

theorem pinWrite_leavesEngine (p : OutPin) (v : Bool) (s : State) : LeavesEngine s (pinWrite p v s) := by
  cases p <;> exact ⟨rfl, rfl, rfl, rfl, rfl, rfl, rfl, rfl⟩

theorem complete_leavesEngine (st : Status) (data : Byte) (s : State) : LeavesEngine s (complete st data s) :=
  ⟨rfl, rfl, rfl, rfl, rfl, rfl, rfl, rfl⟩

/-- What SELECT and DESELECT leave of the bus besides. -/
theorem csRequest_frame {v : Bool} {s t : State} (hs : StandsIn (csRequest v) s) (h : exec (csRequest v) s = .next t) :
    LeavesEngine s t ∧ t.sclk = s.sclk ∧ t.mosi = s.mosi ∧ t.configured = s.configured := by
  rcases csRequest_cases hs h with rfl | ⟨st, rfl⟩
  · exact ⟨pinWrite_leavesEngine .csN v s, rfl, rfl, rfl⟩
  · exact ⟨complete_leavesEngine st 0 s, rfl, rfl, rfl⟩

theorem initBus_leavesEngine {s t : State} (hs : StandsIn .initBus s) (h : exec .initBus s = .next t) :
    LeavesEngine s t := by
  rcases initBus_cases hs h with ⟨p, v, g, rfl⟩ | rfl
  · exact pinWrite_leavesEngine p v s
  · exact complete_leavesEngine .ok 0 { s with configured := true }

/-- Settles O20: INIT_BUS writes pins and completes (`initBus_cases`), SELECT and DESELECT write `CS_N` and answer
(`csRequest_cases`); the rest no request but CARD_INIT writes (`exec_frame`). -/
theorem busRequestsFrame : Obligations.BusRequestsFrame := by
  intro i s t hmem hs h
  have hi : i = .initBus ∨ ∃ v, i = csRequest v := by
    simp only [List.mem_cons, List.not_mem_nil, or_false] at hmem
    rcases hmem with rfl | rfl | rfl
    · exact .inl rfl
    · exact .inr ⟨false, rfl⟩
    · exact .inr ⟨true, rfl⟩
  have hop : i.opcode ≠ 0x06#8 := by
    rcases hi with rfl | ⟨v, rfl⟩
    · decide
    · cases v <;> decide
  obtain ⟨⟨hphase, hprefix, hattempt, hout, hvalid⟩, hreq, hcfg, hhost⟩ := exec_frame hop hs h
  obtain ⟨⟨htx, hrx, hbit, heng, hcnt, hchan, hmiso, hdone⟩, hbus⟩ : LeavesEngine s t ∧
      (i ≠ .initBus → t.sclk = s.sclk ∧ t.mosi = s.mosi ∧ t.configured = s.configured) := by
    rcases hi with rfl | ⟨v, rfl⟩
    · exact ⟨initBus_leavesEngine hs h, fun hne => absurd rfl hne⟩
    · exact (csRequest_frame hs h).imp_right fun hbus _ => hbus
  exact ⟨htx, hrx, hbit, heng, hcnt, hchan, hphase, hprefix, hattempt, hout, hvalid, hreq, hcfg, hmiso, hdone, hhost, hbus⟩

/-- Settles O18: the four primitives of R111, one after the other (`initBus_run`). -/
theorem initBusRuns : Obligations.InitBusRuns := by
  intro s hp
  refine ⟨exec_at_start .initBus hp, ?_⟩
  rw [initBus_run hp, hp]
  rfl

/-- A configured block's SELECT or DESELECT: the write of `CS_N`, then the completion. -/
theorem csRequest_run (v : Bool) {s : State} (hp : s.point = .start) (hc : s.configured = true) :
    exec (csRequest v) s = .next ((pinWrite .csN v s).goto .acknowledge) ∧
      execTimes (csRequest v) 2 s = .next (complete .ok 0 (pinWrite .csN v s)) := by
  have first := (firstStep_csRequest v s).trans (admitted_configured hc)
  refine ⟨(exec_at_start _ hp).trans (congrArg _ first), ?_⟩
  rw [execTimes_start hp, first, execTimes_within (g := .acknowledge) rfl]
  rfl

/-- Settles O19: admitted, each writes its level of `CS_N` and completes (`csRequest_run`). -/
theorem selectAndDeselectRun : Obligations.SelectAndDeselectRun := by
  intro s hp hc
  obtain ⟨select, selectRun⟩ := csRequest_run false hp hc
  obtain ⟨deselect, deselectRun⟩ := csRequest_run true hp hc
  refine ⟨select, selectRun.trans ?_, deselect, deselectRun.trans ?_⟩ <;>
  · rw [hp]
    rfl

/-! ### XCHG and FILL -/

/-- `CS_N`, `configured` and the command channel, which an exchange of the host's own leaves, its one event no diagnostic. Like
`AddsOneEvent` it also holds from `s` with any register of the bit engine written before the primitive. -/
def LeavesCard (s t : State) : Prop :=
  t.csN = s.csN ∧ t.configured = s.configured ∧ t.chan = s.chan ∧ ∃ e, t.trace = e :: s.trace ∧ e.isDiag = false

theorem pinWrite_leavesCard {p : OutPin} (hp : p ≠ .csN) (v : Bool) (s : State) : LeavesCard s (pinWrite p v s) := by
  cases p with
  | csN => exact absurd rfl hp
  | sclk => exact ⟨rfl, rfl, rfl, .pin .sclk v, rfl, rfl⟩
  | mosi => exact ⟨rfl, rfl, rfl, .pin .mosi v, rfl, rfl⟩

theorem pinRead_leavesCard (p : InPin) (s : State) : LeavesCard s (pinRead p s) := by
  cases p <;> exact ⟨rfl, rfl, rfl, .sample _ _, rfl, rfl⟩

theorem complete_leavesCard (st : Status) (data : Byte) (s : State) : LeavesCard s (complete st data s) :=
  ⟨rfl, rfl, rfl, .complete _, rfl, rfl⟩

theorem driveBit_leavesCard (b : Fin 8) (site : Site) (s : State) : LeavesCard s (driveBit b site s) :=
  pinWrite_leavesCard (p := .mosi) nofun (bitOf s.txSr b) { s with bitIdx := b }

theorem pollDone_leavesCard (site : Site) (s : State) : LeavesCard s (pollDone site s) := pinRead_leavesCard .xferDone s

theorem engineStep_leavesCard (x : XferStep) (site : Site) (s : State) : LeavesCard s (engineStep x site s) := by
  cases x with
  | rise => exact pinWrite_leavesCard (p := .sclk) nofun true s
  | settle => exact ⟨rfl, rfl, rfl, .delay .settle, rfl, rfl⟩
  | poll => exact pollDone_leavesCard site { s with eng := .poll, pollCnt := _ }
  | repoll =>
    exact pollAgain_cases (fun _ => pollDone_leavesCard site s)
      (fun _ _ _ => pollDone_leavesCard site { s with pollCnt := s.pollCnt + 1 })
      (fun _ _ _ => pinWrite_leavesCard (p := .sclk) nofun false { s with pollCnt := s.pollCnt + 1 })
  | sample => exact pinRead_leavesCard .miso { s with rxSr := _ }
  | fall => exact pinWrite_leavesCard (p := .sclk) nofun false s

/-- The host's own exchange goes from its last bit, or from its timeout, straight to its answer. -/
theorem rawExchange_leavesCard {g : Seg} (s : State)
    (hg : (∃ x, g = .xfer x .raw) ∨ g ∈ [.fallen .raw, .timedOut .raw]) : LeavesCard s (resume g s) := by
  simp only [List.mem_cons, List.not_mem_nil, or_false] at hg
  rcases hg with ⟨x, rfl⟩ | rfl | rfl
  · exact engineStep_leavesCard x .raw s
  · exact bitDone_cases (fun _ => driveBit_leavesCard _ .raw s)
      (fun _ => complete_leavesCard .ok s.rxSr { s with eng := .idle })
  · exact complete_leavesCard .timeout 0 { s with eng := .idle, rxSr := _, freeCount := _ }

theorem expand_of_opcode_xchg {i : Instr} (h : i.opcode = 0x04#8) : ∃ out, i.expand = .xchg out := by
  cases i with
  | xchg out => exact ⟨out, rfl⟩
  | fill => exact ⟨0xFF#8, rfl⟩
  | _ => exact absurd h (by simp [Instr.opcode])

theorem xchg_leavesCard {i : Instr} {s t : State} (hop : i.opcode = 0x04#8) (hs : StandsIn i s)
    (h : exec i s = .next t) : LeavesCard s t := by
  rcases exec_cases hs h with ⟨_, rfl⟩ | ⟨g, hg, rfl⟩
  · obtain ⟨out, hi⟩ := expand_of_opcode_xchg hop
    rw [← firstStep_expand, hi]
    exact admitted_cases (fun _ => driveBit_leavesCard 7 .raw { s with txSr := out })
      (fun _ => complete_leavesCard .notConfigured 0 s)
  · rw [hop] at hg
    rcases Seg.transport_cases hg (by decide) (by decide) with ⟨h1, _⟩ | ⟨h23, _⟩ | ⟨_, hplace⟩
    · exact absurd h1 (by decide)
    · exact absurd h23 (by decide)
    · exact rawExchange_leavesCard s hplace

/-- Settles O24: the exchange writes `SCLK` and `MOSI` only and reads the inputs (`xchg_leavesCard`); the rest no request but
CARD_INIT writes (`exec_frame`). -/
theorem xchgFrame : Obligations.XchgFrame := by
  intro i s t hop hs h
  obtain ⟨⟨hphase, hprefix, hattempt, hout, hvalid⟩, hreq, hcfg, hhost⟩ := exec_frame (hop ▸ by decide) hs h
  obtain ⟨hcs, hconf, hchan, e, htrace, he⟩ := xchg_leavesCard hop hs h
  refine ⟨hcs, hconf, hchan, hphase, hprefix, hattempt, hout, hvalid, hreq, hcfg, hhost, fun d hd => ?_⟩
  obtain rfl : e = .diag d := (List.cons.inj (htrace.symm.trans hd)).1
  cases he

end Sys2Proof.Machine
end

section
/-! The bit engine's runs (40_transport.md R114 to R121): the wait for XFER_DONE at any number of polls, what follows it, and a
whole XCHG. -/

namespace Sys2Proof.Machine

/-! ### The wait (R117, R118) -/

theorem beginWait_unbounded {site : Site} {s : State} (h : s.cfg.pollLimit = none) :
    beginWait site s = pollDone site { s with eng := .poll } := by
  simp [beginWait, h]

theorem beginWait_limited {site : Site} {s : State} {n : Nat} (h : s.cfg.pollLimit = some n) :
    beginWait site s = pollDone site { s with eng := .poll, pollCnt := 0 } := by
  simp [beginWait, h]

/-- The state after a bit's polls: `m` that read 0, then one that read `v`. With a limit the zeros before the last poll are
counted (R118, R37). -/
def polled (m : Nat) (v : Bool) (site : Site) (s : State) : State :=
  { s with
    eng := .poll, pollCnt := if s.cfg.pollLimit.isSome then m else s.pollCnt, xferDone := s.xferDone.skip (m + 1),
    trace := .sample .xferDone v :: (List.replicate m (.sample .xferDone false) ++ s.trace),
    point := .within (.xfer (if v then .sample else .repoll) site) }

theorem beginWait_eq_polled (site : Site) (s : State) : beginWait site s = polled 0 (s.doneAfter 0) site s := by
  rw [State.doneAfter_zero, polled, ← Line.next_eq_skip]
  rfl

/-- Below the limit a poll that read 0 is followed by one more. -/
theorem pollAgain_polled {site : Site} {s : State} {m : Nat} (hl : ∀ n, s.cfg.pollLimit = some n → m + 1 < n) :
    pollAgain site (polled m false site s) = polled (m + 1) (s.doneAfter (m + 1)) site s := by
  have hline : (s.xferDone.skip (m + 1)).next = s.xferDone.skip (m + 1 + 1) := by
    rw [Line.next_eq_skip, Line.skip_skip]
  cases h : s.cfg.pollLimit with
  | none =>
    rw [pollAgain_unbounded (s := polled m false site s) h]
    simp only [polled, ← hline, h]
    rfl
  | some n =>
    have hcnt : (polled m false site s).pollCnt = m := by simp [polled, h]
    rw [pollAgain_below (s := polled m false site s) h (by rw [hcnt]; exact (hl n h).ne), hcnt]
    simp only [polled, ← hline, h]
    rfl

/-- `m + 1` polls, the first `m` of which read 0. -/
theorem polls_run (i : Instr) (site : Site) {s : State} (hp : s.point = .within (.xfer .poll site)) (m : Nat)
    (hz : ∀ k, k < m → s.doneAfter k = false) (hl : ∀ n, s.cfg.pollLimit = some n → m < n) :
    execTimes i (m + 1) s = .next (polled m (s.doneAfter m) site s) := by
  induction m with
  | zero => exact (execTimes_within hp).trans (congrArg _ (beginWait_eq_polled site s))
  | succ m ih =>
    have before := ih (fun k hk => hz k (by omega)) (fun n hn => by have := hl n hn; omega)
    rw [hz m (by omega)] at before
    rw [execTimes_add i before, execTimes_within (g := .xfer .repoll site) rfl]
    exact congrArg _ (pollAgain_polled hl)

/-- Settles O25: with no limit both polls are one sample (`beginWait_unbounded`, `pollAgain_unbounded`). -/
theorem unboundedPoll : Obligations.UnboundedPoll :=
  fun i _ _ hl => ⟨fun hp => (exec_within i hp).trans (congrArg _ (beginWait_unbounded hl)),
    fun hp => (exec_within i hp).trans (congrArg _ (pollAgain_unbounded hl))⟩

/-- Settles O27: `n` polls read 0 (`polls_run`), and the step after them finds the count at the limit. -/
theorem pollLimitEndsTheWait : Obligations.PollLimitEndsTheWait := by
  refine ⟨fun i site s n hl hn hz hp => ?_, fun i site s n hl => ⟨fun hp => ?_, fun hp hne => ?_, fun hp heq => ?_⟩⟩
  · obtain ⟨m, rfl⟩ := Nat.exists_eq_succ_of_ne_zero hn
    have below (n : Nat) (h : s.cfg.pollLimit = some n) : m < n := by
      cases hl.symm.trans h
      exact m.lt_succ_self
    have polls := polls_run i site hp m (fun k hk => hz k (by omega)) below
    rw [hz m (by omega)] at polls
    have hcnt : (polled m false site s).pollCnt + 1 = m + 1 := by simp [polled, hl]
    rw [execTimes_add i polls, execTimes_within (g := .xfer .repoll site) rfl]
    refine congrArg _ ((pollAgain_limit (s := polled m false site s) hl hcnt).trans ?_)
    rw [hcnt]
    rfl
  · exact (exec_within i hp).trans (congrArg _ (beginWait_limited hl))
  · exact (exec_within i hp).trans (congrArg _ (pollAgain_below hl hne))
  · exact (exec_within i hp).trans (congrArg _ ((pollAgain_limit hl heq).trans (heq ▸ rfl)))

/-! ### The rest of a bit (R116) -/

/-- The two steps before the wait: SCLK 1, then the settle. -/
def bitSettled (site : Site) (s : State) : State :=
  { s with
    sclk := .driven true, eng := .settle, trace := .delay .settle :: .pin .sclk true :: s.trace,
    point := .within (.xfer .poll site) }

theorem bitSettled_run (i : Instr) {site : Site} {s : State} {n : Nat} (hp : s.point = .within (.xfer .rise site)) :
    execTimes i (n + 2) s = execTimes i n (bitSettled site s) := by
  rw [execTimes_within hp, execTimes_within (g := .xfer .settle site) rfl]
  rfl

theorem doneAfter_atOnce {s : State} (h : DoneAtOnce s) (m : Nat) : s.doneAfter m = true := by
  have h : s.xferDone = ⟨[], some true⟩ := h
  simp [State.doneAfter, h, Line.skip, Line.level]

theorem skip_atOnce {s : State} (h : DoneAtOnce s) (m : Nat) : s.xferDone.skip m = s.xferDone := by
  have h : s.xferDone = ⟨[], some true⟩ := h
  simp [h, Line.skip]

/-- The two steps after the wait: the MISO sample, then SCLK 0. -/
def bitEnded (site : Site) (s : State) : State :=
  { s with
    sclk := .driven false, rxSr := putBit s.rxSr s.bitIdx (inputLevel .miso s), miso := s.miso.next,
    trace := .pin .sclk false :: .sample .miso (inputLevel .miso s) :: s.trace, point := .within (.fallen site) }

theorem bitEnded_run (i : Instr) {site : Site} {s : State} (hp : s.point = .within (.xfer .sample site)) :
    execTimes i 2 s = .next (bitEnded site s) := by
  rw [execTimes_within hp, execTimes_within (g := .xfer .fall site) rfl]
  rfl

/-- Settles O22: completion after `m` polls that read 0 (`polls_run`), then sample and fall (`bitEnded_run`). -/
theorem pulseOfABit : Obligations.PulseOfABit := by
  refine ⟨fun i site s hp hd => ?_, fun i site s m hp hz hone hl => ?_, fun i site s hp => exec_within i hp,
    fun i site s hp => exec_within i hp⟩
  · have hpoll : resume (.xfer .poll site) (bitSettled site s) = polled 0 true site (bitSettled site s) := by
      rw [← doneAfter_atOnce (s := bitSettled site s) hd 0]
      exact beginWait_eq_polled site (bitSettled site s)
    have hline : s.xferDone.skip 1 = s.xferDone := skip_atOnce hd 1
    rw [bitSettled_run i hp, execTimes_within (g := .xfer .poll site) rfl, hpoll, bitEnded_run i rfl]
    simp only [bitEnded, polled, bitSettled, hline]
    rfl
  · have polls := polls_run i site hp m hz hl
    rw [hone] at polls
    rw [show m + 3 = m + 1 + 2 from rfl, execTimes_add i polls, bitEnded_run i rfl]
    rfl

/-! ### A whole XCHG -/

/-- Settles O21: admitted, XCHG begins its exchange. -/
theorem xchgBegins : Obligations.XchgBegins :=
  fun i _ _ hi hp hc => (exec_at_start i hp).trans (congrArg _ (firstStep_xchg hi hc))

/-- Settles O23: eight bits (`exchange_run`), and after the last one the completion with the byte. -/
theorem xchgRunsToItsResponse : Obligations.XchgRunsToItsResponse := by
  intro i out s hi hp hc hd hm
  rw [execTimes_start hp, firstStep_xchg hi hc, exchange_run i out .raw s hd hm 1,
    execTimes_within (g := .fallen .raw) rfl]
  exact congrArg _ (bitDone_last rfl)

/-! ### A timeout (R118, R143, R215) -/

/-- Settles O28: XCHG's timeout answers at once, SEND_CMD's after its release of `CS_N`. -/
theorem timeoutOfXchgAndSendCmd : Obligations.TimeoutOfXchgAndSendCmd := by
  refine ⟨fun i s hp => ⟨_, exec_within i hp, rfl, rfl, rfl, rfl, rfl, rfl⟩, fun i s site hsite hp => ?_⟩
  simp only [List.mem_cons, List.not_mem_nil, or_false] at hsite
  rcases hsite with rfl | rfl <;>
    exact ⟨_, (execTimes_within hp).trans (execTimes_within (g := .aborted .host) rfl), rfl, rfl, rfl, rfl, rfl, rfl⟩

end Sys2Proof.Machine
end

section
/-! The scanner and the frame encoder (41_command_channel.md R144, R147 to R149). -/

namespace Sys2Proof.Machine

/-- Settles O42: each arm of the encoder is the byte R144 names. -/
theorem frameEncoder : Obligations.FrameEncoder :=
  fun _ => ⟨rfl, rfl, rfl, rfl, rfl, rfl⟩

/-! ### The scan of a window -/

theorem scan_append_singleton (bs : List Byte) (b : Byte) : scan (bs ++ [b]) = scanStep (scan bs) b :=
  List.foldl_append

/-- Settles O43: by induction from the right, because the last byte alone decides: a filler leaves the scan of the bytes before
it, anything else is the scan. -/
theorem scannerTakesTheLastNonFiller : Obligations.ScannerTakesTheLastNonFiller := by
  refine fun bs => ⟨rfl, ?_⟩
  induction bs using List.reverseRecOn with
  | nil => rfl
  | append_singleton bs b ih =>
    rw [scan_append_singleton, List.filter_append]
    by_cases hb : b = 0xFF#8
    · simpa [scanStep, hb] using ih
    · simp [scanStep, hb]

/-! ### The scanner's registers -/

@[simp] theorem windowLoop_chan (c : Caller) (s : State) : (windowLoop c s).chan = s.chan :=
  windowLoop_cases (P := fun t => t.chan = s.chan) (fun _ => rfl) (fun _ => rfl)

theorem beginWindow_chan (c : Caller) (s : State) :
    (beginWindow c s).chan = { s.chan with scanLast := filler, winLeft := s.chan.fWin } :=
  windowLoop_chan c _

theorem scanByte_chan (c : Caller) (s : State) :
    (scanByte c s).chan =
      { s.chan with scanLast := scanStep s.chan.scanLast s.rxSr, winLeft := s.chan.winLeft - 1 } :=
  windowLoop_chan c _

/-- With diagnostics off a window's exchange hands its byte to the scanner in its own last step (log 9). -/
theorem bitDone_window_silent {c : Caller} {s : State} (hb : s.bitIdx = 0) (hd : s.cfg.diagEnable = false) :
    bitDone (.window c) s = scanByte c { s with eng := .idle } :=
  (bitDone_last hb).trans (emitThen_off hd)

theorem bitDone_lastFrameByte {c : Caller} {s : State} (hb : s.bitIdx = 0) (hk : s.chan.frameIdx = 5) :
    bitDone (.frame c) s = beginWindow c { s with eng := .idle } :=
  (bitDone_last hb).trans (frameByteDone_last hk)

theorem commandReleased_silent {c : Caller} {s : State} (h : s.cfg.diagEnable = false) :
    commandReleased c s = commandEnded c s := emitThen_off h

/-- Settles O44: the window begins in the last step of frame byte 5 (`beginWindow_chan`); a window byte is scanned in the step
after its exchange (`scanByte_chan`); the host's command answers with the register. -/
theorem scannerRegister : Obligations.ScannerRegister := by
  refine ⟨fun i c s hp hb hk => ?_, fun i c s h => ?_, fun i s h => ?_⟩
  · refine ⟨_, exec_within i hp, ?_⟩
    simp [resume, bitDone_lastFrameByte hb hk, beginWindow_chan]
  · have scanned : ∃ u : State, u.chan = s.chan ∧ u.rxSr = s.rxSr ∧ exec i s = .next (scanByte c u) := by
      rcases h with ⟨hd, hp, hb⟩ | hp
      · exact ⟨{ s with eng := .idle }, rfl, rfl, (exec_within i hp).trans (congrArg _ (bitDone_window_silent hb hd))⟩
      · exact ⟨s, rfl, rfl, exec_within i hp⟩
    obtain ⟨u, hchan, hrx, hexec⟩ := scanned
    refine ⟨_, hexec, ?_⟩
    rw [scanByte_chan, hchan, hrx]
    exact ⟨rfl, rfl⟩
  · have ended : exec i s = .next (commandEnded .host s) := by
      rcases h with ⟨hd, hp⟩ | hp
      · exact (exec_within i hp).trans (congrArg _ (commandReleased_silent hd))
      · exact exec_within i hp
    exact ⟨_, ended, rfl, rfl⟩

end Sys2Proof.Machine
end

section
/-! A whole SEND_CMD (41_command_channel.md R140, R143, R149), and what each of its steps leaves alone. -/

namespace Sys2Proof.Machine

/-! ### A run whose bits complete at the first poll -/

/-- A whole SEND_CMD: `SendCommand` (`command_run`), which returns to the host, and the completion with its result. -/
theorem sendCmd_run {i : Instr} {cmd : Byte} {arg : Arg} {crc win : Byte} {s : State}
    (hi : i.expand = .sendCmd cmd arg crc win) (hp : s.point = .start) (hc : s.configured = true) (hd : DoneAtOnce s)
    (hm : MisoGiven s) :
    let k : Command := ⟨cmd, arg, crc, win⟩
    ∃ u, Kept s u ∧ u.csN = .driven true ∧ u.sclk = .driven false ∧ u.eng = .idle ∧ u.miso = commandLine k s.miso ∧
      u.trace = (commandEvents s.cfg.diagEnable k s.miso).reverse ++ s.trace ∧
      Reaches i s (complete .ok (commandResult k s.miso) u) := by
  intro k
  obtain ⟨u, hk, hcs, hsclk, heng, hmiso, htrace, hreach⟩ := command_run i .host k s hd hm
  exact ⟨u, hk, hcs, hsclk, heng, hmiso, htrace, .start hp (firstStep_sendCmd hi hc ▸ hreach _ (.refl i _))⟩

/-- A completion adds itself to the events of its request. -/
theorem eventsSince_complete {s u : State} {es : List Event} (h : u.trace = es.reverse ++ s.trace) (st : Status)
    (data : Byte) : eventsSince s (complete st data u) = es ++ [.complete (response st data)] :=
  eventsSince_of_trace (by simp [h])

/-- Settles O46: what `sendCmd_run` leaves, register by register. -/
theorem sendCmdRunsToItsResponse : Obligations.SendCmdRunsToItsResponse := by
  intro i cmd arg crc win s hi hp hc hd hm k
  obtain ⟨u, hk, hcs, hsclk, heng, hmiso, htrace, n, hn⟩ := sendCmd_run hi hp hc hd hm
  have hist : (complete .ok (commandResult k s.miso) u).history = s.history ++ commandEvents s.cfg.diagEnable k s.miso ++
      [.complete (response .ok (commandResult k s.miso))] := by
    simp [State.history, htrace, k]
  exact ⟨n, _, hn, rfl, rfl, rfl, rfl, hcs, hsclk, heng, hmiso, hk.xferDone, hk.configured, hk.initPhase, hk.attempt,
    hk.prefixLeft, hk.outcome, hk.outcomeValid, hk.req, hk.cfg, hk.host, hist⟩

/-- The events of a silent command with no window (R149). -/
theorem commandEvents_emptyWindow (cmd : Byte) (arg : Arg) (crc : Byte) (l : Line) :
    commandEvents false ⟨cmd, arg, crc, 0#8⟩ l = [.pin .csN false] ++
      (List.zipWith exchangeEvents (Command.frame ⟨cmd, arg, crc, 0#8⟩) (l.bytes 6)).flatten ++ [.pin .csN true] := by
  simp [commandEvents, diagEvent, Line.bytes]

theorem commandResult_emptyWindow (cmd : Byte) (arg : Arg) (crc : Byte) (l : Line) :
    commandResult ⟨cmd, arg, crc, 0#8⟩ l = filler := rfl

/-- Settles O47: the whole command (`sendCmd_run`) with no window byte to scan. -/
theorem emptyWindowReturnsFiller : Obligations.EmptyWindowReturnsFiller := by
  intro cmd arg crc s hp hc hd hm hdiag
  obtain ⟨u, _, _, _, _, _, htrace, n, hn⟩ := sendCmd_run (i := .sendCmd cmd arg crc 0#8) rfl hp hc hd hm
  rw [commandResult_emptyWindow] at hn
  refine ⟨n, _, hn, rfl, rfl, ?_⟩
  rw [eventsSince_complete htrace, hdiag, commandEvents_emptyWindow, List.append_assoc]
  rfl

/-! ### One step in any environment -/

/-- An instruction in its own sequence goes on in it or answers. -/
theorem exec_goes {i : Instr} {s t : State} (hs : StandsIn i s) (h : exec i s = .next t) : Goes i.opcode s t := by
  rcases exec_cases hs h with ⟨_, rfl⟩ | ⟨g, hg, rfl⟩
  · exact firstStep_goes i s
  · exact resume_goes s hg

theorem Goes.configured_eq {op : Byte} {s t : State} (h : Goes op s t) (hop : op ≠ 0x01#8) :
    t.configured = s.configured := by
  rcases h with ⟨_, _, _, _, _, hconf, _⟩ | ⟨_, _, _, _, _, _, hconf | ⟨h1, _⟩, _⟩
  · exact hconf
  · exact hconf
  · exact absurd h1 hop

/-- Settles O50: only INIT_BUS writes `configured` (`Goes.configured_eq`), only CARD_INIT the initialiser, and no request the
rest (`exec_frame`). -/
theorem sendCmdFrame : Obligations.SendCmdFrame := by
  intro i s t hop hs h
  obtain ⟨⟨hphase, hprefix, hattempt, hout, hvalid⟩, hreq, hcfg, hhost⟩ := exec_frame (hop ▸ by decide) hs h
  have hconf := (exec_goes hs h).configured_eq (hop ▸ by decide)
  exact ⟨hconf, hphase, hprefix, hattempt, hout, hvalid, hreq, hcfg, hhost⟩

end Sys2Proof.Machine
end

section
/-! Chip-select along a SEND_CMD in every environment (41_command_channel.md R143, R151): at each place of its sequence the pin
events since the request's beginning. -/

namespace Sys2Proof.Machine

/-! ### The pin events of a request -/

/-- From the history `base` on, `s` has recorded the pin events `ps`. -/
def State.Drove (base : List Event) (ps : List (OutPin × Bool)) (s : State) : Prop :=
  ∃ es, s.trace = es.reverse ++ base ∧ pinEvents es = ps

/-- Pin events of the other two outputs. -/
def BesideCS (ps : List (OutPin × Bool)) : Prop := ∀ p ∈ ps, p.1 ≠ .csN

/-- `CS_N` has been driven low, as the first pin event, and not been driven again. -/
def Selected (base : List Event) (s : State) : Prop := ∃ ps, BesideCS ps ∧ s.Drove base ((.csN, false) :: ps)

/-- After that `CS_N` has been driven high, as the last pin event, and still is. -/
def Released (base : List Event) (s : State) : Prop :=
  s.csN = .driven true ∧ ∃ ps, BesideCS ps ∧ s.Drove base ((.csN, false) :: ps ++ [(.csN, true)])

variable {base : List Event} {s t : State}

theorem State.Drove.record {ps : List (OutPin × Bool)} {e : Event} (h : s.Drove base ps) (ht : t.trace = e :: s.trace) :
    t.Drove base (ps ++ pinEvents [e]) := by
  obtain ⟨es, htrace, hps⟩ := h
  exact ⟨es ++ [e], by simp [ht, htrace], by simp [← hps, pinEvents]⟩

/-- An event that writes no pin. -/
theorem State.Drove.keep {ps : List (OutPin × Bool)} {e : Event} (h : s.Drove base ps) (ht : t.trace = e :: s.trace)
    (he : pinEvents [e] = []) : t.Drove base ps := by
  have hdrove := h.record ht
  rwa [he, List.append_nil] at hdrove

theorem State.Drove.select (h : s.Drove base []) (ht : t.trace = .pin .csN false :: s.trace) : Selected base t :=
  ⟨[], nofun, h.record ht⟩

/-- While the card is selected every other primitive leaves `CS_N` alone. -/
theorem Selected.record {e : Event} (h : Selected base s) (ht : t.trace = e :: s.trace)
    (he : BesideCS (pinEvents [e])) : Selected base t := by
  obtain ⟨ps, hps, hdrove⟩ := h
  exact ⟨ps ++ pinEvents [e], fun p hp => (List.mem_append.mp hp).elim (hps p) (he p), hdrove.record ht⟩

theorem Selected.release (h : Selected base s) (ht : t.trace = .pin .csN true :: s.trace) (hcs : t.csN = .driven true) :
    Released base t := by
  obtain ⟨ps, hps, hdrove⟩ := h
  exact ⟨hcs, ps, hps, hdrove.record ht⟩

/-- After the release no pin is written any more. -/
theorem Released.record {e : Event} (h : Released base s) (ht : t.trace = e :: s.trace) (hcs : t.csN = s.csN)
    (he : pinEvents [e] = []) : Released base t := by
  obtain ⟨hhigh, ps, hps, hdrove⟩ := h
  exact ⟨hcs.trans hhigh, ps, hps, hdrove.keep ht he⟩

/-! ### The places of a SEND_CMD -/

/-- The exchanges of the host's own command. -/
inductive Site.OfHostCommand : Site → Prop where
  | frame : OfHostCommand (.frame .host)
  | window : OfHostCommand (.window .host)

/-- The places between the assertion of `CS_N` and its release. -/
inductive Seg.CardSelected : Seg → Prop where
  | selected : CardSelected (.selected .host)
  | xfer (x : XferStep) {site : Site} (h : site.OfHostCommand) : CardSelected (.xfer x site)
  | fallen {site : Site} (h : site.OfHostCommand) : CardSelected (.fallen site)
  | timedOut {site : Site} (h : site.OfHostCommand) : CardSelected (.timedOut site)
  | mirrored : CardSelected (.mirrored .host)

/-- The places after the release. -/
inductive Seg.CardReleased : Seg → Prop where
  | released : CardReleased (.released .host)
  | ended : CardReleased (.ended .host)
  | aborted : CardReleased (.aborted .host)

/-- The places of a SEND_CMD and the pin events since its beginning at each. -/
inductive Commanding (base : List Event) (s : State) : Prop where
  | accepted (hp : s.point = .start) (hc : s.configured = true) (h : s.Drove base [])
  | announced (hp : s.point = .within (.announced .host)) (h : s.Drove base [])
  | selected (g : Seg) (hg : g.CardSelected) (hp : s.point = .within g) (h : Selected base s)
  | released (g : Seg) (hg : g.CardReleased) (hp : s.point = .within g) (h : Released base s)

/-- The request has answered and nothing follows it. -/
def CommandAnswered (base : List Event) (s : State) : Prop :=
  s.resetLine = false ∧ s.host = [] ∧ s.ctl = .idle ∧ Released base s

/-- The command `i` undisturbed, up to its answer and after it. -/
def CommandRun (base : List Event) (i : Instr) (s : State) : Prop :=
  RunsAlone i s ∧ Commanding base s ∨ CommandAnswered base s

variable {i : Instr}

theorem RunsAlone.complete_command {st : Status} {data : Byte} (hr : RunsAlone i s) (h : Released base s) :
    CommandRun base i (complete st data s) := by
  obtain ⟨hreset, hhost, _, _⟩ := hr
  exact .inr ⟨hreset, hhost, rfl, h.record (t := complete st data s) rfl rfl rfl⟩

/-! ### The primitives while the card is selected -/

theorem pinWrite_command {p : OutPin} {v : Bool} {g : Seg} (hp : p ≠ .csN) (hg : g.CardSelected) (hr : RunsAlone i s)
    (h : Selected base s) : CommandRun base i ((pinWrite p v s).goto g) := by
  have beside : BesideCS (pinEvents [.pin p v]) := by simpa [BesideCS, pinEvents] using hp
  have goes := h.record (t := (pinWrite p v s).goto g) (pinWrite_trace p v s) beside
  cases p <;> exact .inl ⟨hr, .selected g hg rfl goes⟩

theorem pinRead_command {p : InPin} {g : Seg} (hg : g.CardSelected) (hr : RunsAlone i s) (h : Selected base s) :
    CommandRun base i ((pinRead p s).goto g) := by
  have goes := h.record (t := (pinRead p s).goto g) (pinRead_trace p s) nofun
  cases p <;> exact .inl ⟨hr, .selected g hg rfl goes⟩

theorem releaseCS_command {g : Seg} (hg : g.CardReleased) (hr : RunsAlone i s) (h : Selected base s) :
    CommandRun base i ((releaseCS s).goto g) :=
  .inl ⟨hr, .released g hg rfl (h.release rfl rfl)⟩

/-! ### The bit engine -/

variable {site : Site}

theorem driveBit_command {b : Fin 8} (hs : site.OfHostCommand) (hr : RunsAlone i s) (h : Selected base s) :
    CommandRun base i (driveBit b site s) :=
  pinWrite_command (s := { s with bitIdx := b }) (p := .mosi) nofun (.xfer .rise hs) hr h

theorem beginExchange_command {out : Byte} (hs : site.OfHostCommand) (hr : RunsAlone i s) (h : Selected base s) :
    CommandRun base i (beginExchange out site s) :=
  driveBit_command (s := { s with txSr := out }) hs hr h

theorem pollDone_command (hs : site.OfHostCommand) (hr : RunsAlone i s) (h : Selected base s) :
    CommandRun base i (pollDone site s) := pinRead_command (.xfer _ hs) hr h

theorem pollAgain_command (hs : site.OfHostCommand) (hr : RunsAlone i s) (h : Selected base s) :
    CommandRun base i (pollAgain site s) :=
  pollAgain_cases (fun _ => pollDone_command hs hr h) (fun _ _ _ => pollDone_command (s := { s with pollCnt := _ }) hs hr h)
    (fun _ _ _ => pinWrite_command (s := { s with pollCnt := _ }) (p := .sclk) nofun (.timedOut hs) hr h)

theorem engineStep_command {x : XferStep} (hs : site.OfHostCommand) (hr : RunsAlone i s) (h : Selected base s) :
    CommandRun base i (engineStep x site s) := by
  cases x with
  | rise => exact pinWrite_command (p := .sclk) nofun (.xfer .settle hs) hr h
  | settle => exact .inl ⟨hr, .selected _ (.xfer .poll hs) rfl (h.record rfl nofun)⟩
  | poll => exact pollDone_command (s := { s with eng := .poll, pollCnt := _ }) hs hr h
  | repoll => exact pollAgain_command hs hr h
  | sample => exact pinRead_command (s := { s with rxSr := _ }) (.xfer .fall hs) hr h
  | fall => exact pinWrite_command (p := .sclk) nofun (.fallen hs) hr h

/-- A timeout releases `CS_N` too (R143). -/
theorem giveUp_command (hs : site.OfHostCommand) (hr : RunsAlone i s) (h : Selected base s) :
    CommandRun base i (giveUp site s) := by
  cases hs <;> exact releaseCS_command (s := { s with eng := .idle, rxSr := _, freeCount := _ }) .aborted hr h

/-! ### The command channel -/

theorem windowLoop_command (hr : RunsAlone i s) (h : Selected base s) : CommandRun base i (windowLoop .host s) :=
  windowLoop_cases (fun _ => beginExchange_command .window hr h) (fun _ => releaseCS_command .released hr h)

theorem sendFrameByte_command {k : Fin 6} (hr : RunsAlone i s) (h : Selected base s) :
    CommandRun base i (sendFrameByte k .host s) :=
  beginExchange_command (s := { s with chan := _ }) .frame hr h

theorem scanByte_command (hr : RunsAlone i s) (h : Selected base s) : CommandRun base i (scanByte .host s) :=
  windowLoop_command (s := { s with chan := _ }) hr h

theorem exchangeReturned_command (hs : site.OfHostCommand) (hr : RunsAlone i s) (h : Selected base s) :
    CommandRun base i (exchangeReturned site s) := by
  cases hs with
  | frame =>
    exact frameByteDone_cases (fun _ => sendFrameByte_command hr h)
      (fun _ => windowLoop_command (s := { s with chan := _ }) hr h)
  | window =>
    exact emitThen_cases (fun _ => .inl ⟨hr, .selected _ .mirrored rfl (h.record rfl nofun)⟩)
      (fun _ => scanByte_command hr h)

theorem bitDone_command (hs : site.OfHostCommand) (hr : RunsAlone i s) (h : Selected base s) :
    CommandRun base i (bitDone site s) :=
  bitDone_cases (fun _ => driveBit_command hs hr h)
    (fun _ => exchangeReturned_command (s := { s with eng := .idle }) hs hr h)

theorem selectCard_command (hr : RunsAlone i s) (h : s.Drove base []) : CommandRun base i (selectCard .host s) :=
  .inl ⟨hr, .selected _ .selected rfl (h.select rfl)⟩

theorem enterCommand_command {k : Command} (hr : RunsAlone i s) (h : s.Drove base []) :
    CommandRun base i (enterCommand .host k s) :=
  emitThen_cases (s := latch k s) (fun _ => .inl ⟨hr, .announced rfl (h.keep rfl rfl)⟩)
    (fun _ => selectCard_command (s := latch k s) hr h)

theorem commandEnded_command (hr : RunsAlone i s) (h : Released base s) : CommandRun base i (commandEnded .host s) :=
  RunsAlone.complete_command (s := forgetChannel s) hr h

/-! ### The whole request -/

theorem resume_selected_command {g : Seg} (hg : g.CardSelected) (hr : RunsAlone i s) (h : Selected base s) :
    CommandRun base i (resume g s) := by
  cases hg with
  | selected => exact sendFrameByte_command hr h
  | xfer x hs => exact engineStep_command hs hr h
  | fallen hs => exact bitDone_command hs hr h
  | timedOut hs => exact giveUp_command hs hr h
  | mirrored => exact scanByte_command hr h

theorem resume_released_command {g : Seg} (hg : g.CardReleased) (hr : RunsAlone i s) (h : Released base s) :
    CommandRun base i (resume g s) := by
  cases hg with
  | released =>
    exact emitThen_cases (fun _ => .inl ⟨hr, .released _ .ended rfl (h.record rfl rfl rfl)⟩)
      (fun _ => commandEnded_command hr h)
  | ended => exact commandEnded_command hr h
  | aborted => exact RunsAlone.complete_command (s := forgetChannel s) hr h

theorem expand_of_opcode_sendCmd (h : i.opcode = 0x05#8) :
    ∃ cmd arg crc win, i.expand = .sendCmd cmd arg crc win := by
  cases i with
  | sendCmd cmd arg crc win => exact ⟨cmd, arg, crc, win, rfl⟩
  | goIdleState => exact ⟨_, _, _, _, rfl⟩
  | sendOpCond => exact ⟨_, _, _, _, rfl⟩
  | setBlocklen n => exact ⟨_, _, _, _, rfl⟩
  | _ => exact absurd h (by simp [Instr.opcode])

/-- Every step of an undisturbed SEND_CMD keeps what its place says of chip-select; once it has answered nothing happens. -/
theorem step_keeps_commandRun (hop : i.opcode = 0x05#8) (h : CommandRun base i s) (hstep : step s = .next t) :
    CommandRun base i t := by
  rcases h with ⟨hr, hplace⟩ | h
  · cases hplace with
    | accepted hp hc hdrove =>
      obtain ⟨cmd, arg, crc, win, hi⟩ := expand_of_opcode_sendCmd hop
      cases (hr.step_start hp).symm.trans hstep
      rw [firstStep_sendCmd hi hc]
      exact enterCommand_command hr hdrove
    | announced hp hdrove =>
      cases (hr.step_within hp).symm.trans hstep
      exact selectCard_command hr hdrove
    | selected g hg hp hsel =>
      cases (hr.step_within hp).symm.trans hstep
      exact resume_selected_command hg hr hsel
    | released g hg hp hrel =>
      cases (hr.step_within hp).symm.trans hstep
      exact resume_released_command hg hr hrel
  · have ⟨hreset, hhost, hidle, _⟩ := h
    have waits : step s = .next s := by rw [step_of_idle hreset hidle, takeRequest, hhost]
    cases waits.symm.trans hstep
    exact .inr h

/-- The levels of one output are its part of the pin events. -/
theorem pinLevels_eq_filterMap (p : OutPin) (es : List Event) :
    pinLevels p es = (pinEvents es).filterMap fun q => if q.1 = p then some q.2 else none := by
  rw [pinLevels, pinEvents, List.filterMap_filterMap]
  congr 1
  funext e
  cases e <;> rfl

theorem csLevels_besideCS {ps : List (OutPin × Bool)} (h : BesideCS ps) :
    (ps.filterMap fun q => if q.1 = OutPin.csN then some q.2 else none) = [] :=
  List.filterMap_eq_nil_iff.mpr fun q hq => if_neg (h q hq)

/-- What R151 asks of the events of a command. -/
theorem chipSelect_of_released (h : Released s.trace t) :
    pinLevels .csN (eventsSince s t) = [false, true] ∧ (pinEvents (eventsSince s t)).head? = some (.csN, false) ∧
      (pinEvents (eventsSince s t)).getLast? = some (.csN, true) ∧ t.csN = .driven true := by
  obtain ⟨hcs, ps, hps, es, htrace, hpins⟩ := h
  have levels : pinLevels .csN es = [false, true] := by
    rw [pinLevels_eq_filterMap, hpins]
    simp [csLevels_besideCS hps]
  rw [eventsSince_of_trace htrace, hpins]
  exact ⟨levels, rfl, List.getLast?_concat, hcs⟩

/-- Settles O49: from its beginning on, with nothing driven yet, every step of the command keeps what its place says of
chip-select (`step_keeps_commandRun`); an idle block has answered. -/
theorem chipSelectOncePerCommand : Obligations.ChipSelectOncePerCommand := by
  intro s t op i n hr hh hctl hp hc hdec hop hrun hidle
  have start : CommandRun s.trace i s := .inl ⟨⟨hr, hh, ⟨op, hctl⟩, hdec⟩, .accepted hp hc ⟨[], rfl, rfl⟩⟩
  rcases run_keeps (fun _ _ => step_keeps_commandRun hop) start hrun with ⟨⟨_, _, ⟨_, hbusy⟩, _⟩, _⟩ | ⟨_, _, _, hrel⟩
  · cases hidle.symm.trans hbusy
  · exact chipSelect_of_released hrel

end Sys2Proof.Machine
end

section
/-! CARD_INIT from its beginning to its completion when every bit completes at the first poll: the machine's run is
`cardInitRun`, the pseudocode of 42_card_init.md R185 read big-step. -/

namespace Sys2Proof.Machine

/-! ### The cases of the pseudocode -/

/-- The events of the deselected fillers (R173, R174). -/
def prefixEvents (c : Config) (l : Line) : List Event :=
  [.pin .csN true] ++ (l.bytes c.prefixBytes.toNat).flatMap (exchangeEvents 0xFF#8)

/-- The line after them. -/
def prefixLine (c : Config) (l : Line) : Line := l.skip (8 * c.prefixBytes.toNat)

/-- The idle loop (R175) on the line `l`. -/
def idleLoop (c : Config) (l : Line) : LoopRun :=
  retryLoop c.diagEnable (Command.idle c) 0x01#8 c.idleRetryLimit.toNat 0 l

/-- The op-cond loop (R179) on the line `l`. -/
def opcondLoop (c : Config) (l : Line) : LoopRun :=
  retryLoop c.diagEnable (Command.opcond c) 0x00#8 c.opcondRetryLimit.toNat 0 l

/-- The events of SET_BLOCKLEN and its report (R182, R194). -/
def blocklenEvents (c : Config) (l : Line) : List Event :=
  commandEvents c.diagEnable (Command.blocklen c) l ++
    diagEvent c.diagEnable (.blocklen (commandResult (Command.blocklen c) l))

/-- SET_BLOCKLEN's result decides the outcome only with BLOCKLEN_CHECK (R182 to R184). -/
def blocklenOutcome (c : Config) (l : Line) : InitOutcome :=
  if c.blocklenCheck && commandResult (Command.blocklen c) l ≠ 0x00#8 then .blocklenRejected else .ready

section

variable {c : Config} {l : Line} {r₁ r₂ : LoopRun}

theorem cardInitRun_idleExhausted (h₁ : idleLoop c (prefixLine c l) = r₁) (hs₁ : r₁.success = false) :
    cardInitRun c l = ⟨prefixEvents c l ++ r₁.events, .idleExhausted, r₁.attempts, r₁.line⟩ := by
  subst h₁
  exact if_pos hs₁

theorem cardInitRun_opcondExhausted (h₁ : idleLoop c (prefixLine c l) = r₁) (hs₁ : r₁.success = true)
    (h₂ : opcondLoop c r₁.line = r₂) (hs₂ : r₂.success = false) :
    cardInitRun c l =
      ⟨prefixEvents c l ++ (r₁.events ++ r₂.events), .opcondExhausted, r₂.attempts, r₂.line⟩ := by
  subst h₁ h₂
  rw [← List.append_assoc]
  exact (if_neg (ne_false_of_eq_true hs₁)).trans (if_pos hs₂)

theorem cardInitRun_blocklen (h₁ : idleLoop c (prefixLine c l) = r₁) (hs₁ : r₁.success = true)
    (h₂ : opcondLoop c r₁.line = r₂) (hs₂ : r₂.success = true) :
    cardInitRun c l =
      ⟨prefixEvents c l ++ (r₁.events ++ (r₂.events ++ blocklenEvents c r₂.line)), blocklenOutcome c r₂.line, r₂.attempts,
        commandLine (Command.blocklen c) r₂.line⟩ := by
  subst h₁ h₂
  refine (if_neg (ne_false_of_eq_true hs₁)).trans ((if_neg (ne_false_of_eq_true hs₂)).trans ?_)
  simp only [blocklenEvents, ← List.append_assoc]
  rfl

end

/-- A retry loop consumes samples of the line and leaves the level it settles at. -/
theorem retryLoop_steady (enabled : Bool) (k : Command) (good : Byte) (left made : Nat) (l : Line) :
    (retryLoop enabled k good left made l).line.steady = l.steady := by
  induction left generalizing made l with
  | zero => rfl
  | succ left ih =>
    by_cases hg : commandResult k l = good
    · simp [retryLoop, hg, commandLine]
    · simp [retryLoop, hg, ih, commandLine]

theorem retryLimits_ne_zero {c : Config} (h : c.valid = true) :
    c.idleRetryLimit.toNat ≠ 0 ∧ c.opcondRetryLimit.toNat ≠ 0 := by
  simp only [Config.valid, Bool.and_eq_true, decide_eq_true_eq] at h
  obtain ⟨⟨hidle, hopcond⟩, _⟩ := h
  exact ⟨fun h0 => hidle (BitVec.eq_of_toNat_eq h0), fun h0 => hopcond (BitVec.eq_of_toNat_eq h0)⟩

/-! ### The phases -/

/-- What a phase of CARD_INIT leaves of `s`: the events `es` recorded, `attempt` at `a`, MISO at `l`, the card released. -/
structure PhaseLeaves (s u : State) (es : List Event) (a : Nat) (l : Line) : Prop where
  beside : Beside s u
  csN : u.csN = .driven true
  sclk : u.sclk = .driven false
  eng : u.eng = .idle
  attempt : u.attempt.toNat = a
  miso : u.miso = l
  trace : u.trace = es.reverse ++ s.trace

/-- A phase after others that recorded `es`. -/
theorem PhaseLeaves.after {s u v : State} {es es' : List Event} {a : Nat} {l : Line} (hb : Beside s u)
    (ht : u.trace = es.reverse ++ s.trace) (h : PhaseLeaves u v es' a l) : PhaseLeaves s v (es ++ es') a l :=
  ⟨hb.trans h.beside, h.csN, h.sclk, h.eng, h.attempt, h.miso, by simp [h.trace, ht]⟩

variable {s : State} {c : Config} {l : Line}

theorem prefixPhase_run (hd : DoneAtOnce s) (hm : MisoGiven s) :
    ∃ u, Beside s u ∧ u.miso = prefixLine s.cfg s.miso ∧ u.trace = (prefixEvents s.cfg s.miso).reverse ++ s.trace ∧
      ∀ t, Reaches .cardInit (idleAttempt { u with attempt := 0 }) t → Reaches .cardInit (beginCardInit s) t := by
  obtain ⟨u, hu, _, hmiso, htrace, hreach⟩ := prefix_run .cardInit s.cfg.prefixBytes.toNat
    { beginCardInit s with prefixLeft := s.cfg.prefixBytes } hd hm rfl
  have hstart : Beside s { beginCardInit s with prefixLeft := s.cfg.prefixBytes } := by constructor <;> rfl
  refine ⟨u, hstart.trans hu, hmiso, ?_, fun t h => .within (g := .prefixStart) rfl (hreach t h)⟩
  rw [htrace]
  simp [prefixEvents, beginCardInit, releaseCS]

theorem idlePhase_run (hc : s.cfg = c) (hl : s.miso = l) (hd : DoneAtOnce s) (hm : MisoGiven s) (hv : c.valid = true) :
    ∃ u, PhaseLeaves s u (idleLoop c l).events (idleLoop c l).attempts (idleLoop c l).line ∧
      ((idleLoop c l).success = true → ∀ t, Reaches .cardInit (opcondAttempt { u with attempt := 0 }) t →
        Reaches .cardInit (idleAttempt { s with attempt := 0 }) t) ∧
      ((idleLoop c l).success = false → ∀ t, Reaches .cardInit (conclude .ok .idleExhausted u) t →
        Reaches .cardInit (idleAttempt { s with attempt := 0 }) t) := by
  subst hc hl
  obtain ⟨u, hu, hcs, hsclk, heng, hmiso, hattempt, htrace, hreach⟩ := idle_loop_run .cardInit
    s.cfg.idleRetryLimit.toNat { s with attempt := 0 } hd hm (Nat.zero_add _) (retryLimits_ne_zero hv).1
  exact ⟨u, ⟨⟨hu.1, hu.2, hu.3, hu.4, hu.5, hu.6⟩, hcs, hsclk, heng, hattempt, hmiso, htrace⟩, hreach⟩

theorem opcondPhase_run (hc : s.cfg = c) (hl : s.miso = l) (hd : DoneAtOnce s) (hm : MisoGiven s) (hv : c.valid = true) :
    ∃ u, PhaseLeaves s u (opcondLoop c l).events (opcondLoop c l).attempts (opcondLoop c l).line ∧
      ((opcondLoop c l).success = true → ∀ t, Reaches .cardInit (sendBlocklen u) t →
        Reaches .cardInit (opcondAttempt { s with attempt := 0 }) t) ∧
      ((opcondLoop c l).success = false → ∀ t, Reaches .cardInit (conclude .ok .opcondExhausted u) t →
        Reaches .cardInit (opcondAttempt { s with attempt := 0 }) t) := by
  subst hc hl
  obtain ⟨u, hu, hcs, hsclk, heng, hmiso, hattempt, htrace, hreach⟩ := opcond_loop_run .cardInit
    s.cfg.opcondRetryLimit.toNat { s with attempt := 0 } hd hm (Nat.zero_add _) (retryLimits_ne_zero hv).2
  exact ⟨u, ⟨⟨hu.1, hu.2, hu.3, hu.4, hu.5, hu.6⟩, hcs, hsclk, heng, hattempt, hmiso, htrace⟩, hreach⟩

theorem judgeBlocklen_outcome (hc : s.cfg = c) :
    judgeBlocklen (commandResult (Command.blocklen c) l) s = conclude .ok (blocklenOutcome c l) s := by
  subst hc
  exact judgeBlocklen_eq _ s

/-- SET_BLOCKLEN returns, is reported with DIAG_ENABLE, and decides (R194). -/
theorem blocklenResult_run {r : Byte} (s : State) :
    ∃ u, Beside s u ∧ u.csN = s.csN ∧ u.sclk = s.sclk ∧ u.eng = s.eng ∧ u.attempt = s.attempt ∧ u.miso = s.miso ∧
      u.trace = (diagEvent s.cfg.diagEnable (.blocklen r)).reverse ++ s.trace ∧
      Reaches .cardInit (blocklenResult r s) (judgeBlocklen r u) := by
  cases hg : s.cfg.diagEnable with
  | false =>
    refine ⟨s, .refl s, rfl, rfl, rfl, rfl, rfl, rfl, ?_⟩
    rw [blocklenResult, emitThen_off hg]
    exact .refl _ _
  | true =>
    refine ⟨(s.record (.diag (.blocklen r))).goto (.reported r), by constructor <;> rfl, rfl, rfl, rfl, rfl, rfl, rfl, ?_⟩
    rw [blocklenResult, emitThen_on hg]
    exact .within rfl (.refl _ _)

theorem blocklenPhase_run (hc : s.cfg = c) (hl : s.miso = l) (hd : DoneAtOnce s) (hm : MisoGiven s) :
    ∃ u, PhaseLeaves s u (blocklenEvents c l) s.attempt.toNat (commandLine (Command.blocklen c) l) ∧
      Reaches .cardInit (sendBlocklen s) (conclude .ok (blocklenOutcome c l) u) := by
  subst hc hl
  obtain ⟨u, hu, hcs, hsclk, heng, hmiso, htrace, hreach⟩ :=
    command_run .cardInit .blocklen (Command.blocklen s.cfg) { s with initPhase := .blocklen } hd hm
  obtain ⟨v, hv, vcs, vsclk, veng, vattempt, vmiso, vtrace, vreach⟩ :=
    blocklenResult_run (r := commandResult (Command.blocklen s.cfg) s.miso) u
  have hb : Beside s v := Beside.trans ⟨hu.configured, hu.ctl, hu.req, hu.cfg, hu.xferDone, hu.host⟩ hv
  have hcfg : u.cfg = s.cfg := hu.cfg
  rw [judgeBlocklen_outcome hb.cfg] at vreach
  refine ⟨v, ⟨hb, vcs.trans hcs, vsclk.trans hsclk, veng.trans heng, congrArg _ (vattempt.trans hu.attempt),
    vmiso.trans hmiso, ?_⟩, hreach _ vreach⟩
  rw [vtrace, htrace, hcfg]
  simp [blocklenEvents]

/-! ### The whole request -/

/-- Every phase on the line the one before leaves, and the completion where the pseudocode ends. -/
theorem cardInit_run (hp : s.point = .start) (hconf : s.configured = true) (hd : DoneAtOnce s) (hm : MisoGiven s)
    (hvalid : s.cfg.valid = true) :
    let r := cardInitRun s.cfg s.miso
    ∃ u, PhaseLeaves s u r.events r.attempts r.line ∧ Reaches .cardInit s (conclude .ok r.outcome u) := by
  have begins {t : State} (h : Reaches .cardInit (beginCardInit s) t) : Reaches .cardInit s t := by
    refine .start hp ?_
    rw [firstStep, admitted_configured hconf]
    exact h
  obtain ⟨a, ha, amiso, atrace, areach⟩ := prefixPhase_run hd hm
  have am : MisoGiven a := by simpa [MisoGiven, amiso, prefixLine] using hm
  obtain ⟨u, hu, uyes, uno⟩ := idlePhase_run ha.cfg amiso (ha.doneAtOnce hd) am hvalid
  have um : MisoGiven u := by simpa [MisoGiven, hu.miso, idleLoop, retryLoop_steady, prefixLine] using hm
  generalize h₁ : idleLoop s.cfg (prefixLine s.cfg s.miso) = r₁ at hu uyes uno
  have hsu := ha.trans hu.beside
  cases hs₁ : r₁.success with
  | false =>
    rw [cardInitRun_idleExhausted h₁ hs₁]
    exact ⟨u, .after ha atrace hu, begins (areach _ (uno hs₁ _ (.refl _ _)))⟩
  | true =>
    obtain ⟨v, hv, vyes, vno⟩ := opcondPhase_run hsu.cfg hu.miso (hsu.doneAtOnce hd) um hvalid
    have vm : MisoGiven v := by simpa [MisoGiven, hv.miso, ← hu.miso, opcondLoop, retryLoop_steady] using um
    generalize h₂ : opcondLoop s.cfg r₁.line = r₂ at hv vyes vno
    have hsv := hsu.trans hv.beside
    cases hs₂ : r₂.success with
    | false =>
      rw [cardInitRun_opcondExhausted h₁ hs₁ h₂ hs₂]
      exact ⟨v, .after ha atrace (.after hu.beside hu.trace hv),
        begins (areach _ (uyes hs₁ _ (vno hs₂ _ (.refl _ _))))⟩
    | true =>
      obtain ⟨w, hw, wreach⟩ := blocklenPhase_run hsv.cfg hv.miso (hsv.doneAtOnce hd) vm
      rw [cardInitRun_blocklen h₁ hs₁ h₂ hs₂]
      exact ⟨w, .after ha atrace (.after hu.beside hu.trace (.after hv.beside hv.trace (hv.attempt ▸ hw))),
        begins (areach _ (uyes hs₁ _ (vyes hs₂ _ wreach)))⟩

end Sys2Proof.Machine
end

section
/-! Diagnostics never steer (41_command_channel.md R155, 60_exceptions.md R229): what a request answers, consumes and records,
its diagnostic events apart, is one thing whatever DIAG_ENABLE is. -/

namespace Sys2Proof.Machine

/-! ### A history without its diagnostic events -/

/-- The events that are no diagnostics. -/
def withoutDiags (es : List Event) : List Event := es.filter fun e => !e.isDiag

@[simp] theorem withoutDiags_append (es es' : List Event) : withoutDiags (es ++ es') = withoutDiags es ++ withoutDiags es' :=
  List.filter_append es es'

@[simp] theorem withoutDiags_pin (p : OutPin) (v : Bool) (es : List Event) :
    withoutDiags (.pin p v :: es) = .pin p v :: withoutDiags es := rfl

@[simp] theorem withoutDiags_delay (k : Wait) (es : List Event) :
    withoutDiags (.delay k :: es) = .delay k :: withoutDiags es := rfl

@[simp] theorem withoutDiags_nil : withoutDiags [] = [] := rfl

@[simp] theorem diagEvent_false (d : Diag) : diagEvent false d = [] := rfl

@[simp] theorem withoutDiags_diagEvent (enabled : Bool) (d : Diag) : withoutDiags (diagEvent enabled d) = [] := by
  cases enabled <;> rfl

@[simp] theorem withoutDiags_exchangeEvents (out inn : Byte) :
    withoutDiags (exchangeEvents out inn) = exchangeEvents out inn := rfl

theorem withoutDiags_fillers (inns : List Byte) :
    withoutDiags (inns.flatMap (exchangeEvents 0xFF#8)) = inns.flatMap (exchangeEvents 0xFF#8) := by
  induction inns with
  | nil => rfl
  | cons inn inns ih => simp [ih]

theorem withoutDiags_frame (outs inns : List Byte) :
    withoutDiags (List.zipWith exchangeEvents outs inns).flatten = (List.zipWith exchangeEvents outs inns).flatten := by
  induction outs generalizing inns with
  | nil => rfl
  | cons out outs ih =>
    cases inns with
    | nil => rfl
    | cons inn inns => simp [ih]

theorem withoutDiags_window (enabled : Bool) (inns : List Byte) :
    withoutDiags (inns.flatMap fun b => exchangeEvents 0xFF#8 b ++ diagEvent enabled (.resp b)) =
      inns.flatMap fun b => exchangeEvents 0xFF#8 b ++ diagEvent false (.resp b) := by
  induction inns with
  | nil => rfl
  | cons inn inns ih => simpa using ih

/-- Without its diagnostics a command is the command with DIAG_ENABLE off. -/
@[simp] theorem withoutDiags_commandEvents (enabled : Bool) (k : Command) (l : Line) :
    withoutDiags (commandEvents enabled k l) = commandEvents false k l := by
  simp [commandEvents, withoutDiags_frame, withoutDiags_window]

/-! ### The pseudocode of CARD_INIT -/

/-- The configuration with DIAG_ENABLE at `b`. -/
def setDiag (b : Bool) (c : Config) : Config := { c with diagEnable := b }

/-- A retry loop's run without its diagnostics. -/
def LoopRun.quiet (r : LoopRun) : LoopRun := { r with events := withoutDiags r.events }

/-- A CARD_INIT's run without its diagnostics. -/
def InitRun.quiet (r : InitRun) : InitRun := { r with events := withoutDiags r.events }

theorem retryLoop_quiet (enabled : Bool) (k : Command) (good : Byte) (left made : Nat) (l : Line) :
    (retryLoop enabled k good left made l).quiet = retryLoop false k good left made l := by
  induction left generalizing made l with
  | zero => rfl
  | succ left ih =>
    by_cases hg : commandResult k l = good
    · simp [retryLoop, hg, LoopRun.quiet]
    · simp [retryLoop, hg, ← ih, LoopRun.quiet]

variable {c : Config} {l : Line} {b : Bool} {r : LoopRun}

theorem idleLoop_quiet (h : idleLoop (setDiag b c) l = r) : idleLoop (setDiag false c) l = r.quiet := by
  subst h
  exact (retryLoop_quiet _ _ _ _ _ _).symm

theorem opcondLoop_quiet (h : opcondLoop (setDiag b c) l = r) : opcondLoop (setDiag false c) l = r.quiet := by
  subst h
  exact (retryLoop_quiet _ _ _ _ _ _).symm

@[simp] theorem withoutDiags_prefixEvents : withoutDiags (prefixEvents (setDiag b c) l) = prefixEvents c l := by
  simp [prefixEvents, withoutDiags_fillers, setDiag]

@[simp] theorem withoutDiags_blocklenEvents :
    withoutDiags (blocklenEvents (setDiag b c) l) = blocklenEvents (setDiag false c) l := by
  simp only [blocklenEvents, withoutDiags_append, withoutDiags_commandEvents, withoutDiags_diagEvent]
  rfl

/-- Without its diagnostics CARD_INIT is CARD_INIT with DIAG_ENABLE off: the same branch of the pseudocode, phase by phase. -/
theorem cardInitRun_quiet (c : Config) (b : Bool) (l : Line) :
    (cardInitRun (setDiag b c) l).quiet = cardInitRun (setDiag false c) l := by
  obtain ⟨r₁, h₁⟩ : ∃ r, idleLoop (setDiag b c) (prefixLine (setDiag b c) l) = r := ⟨_, rfl⟩
  obtain ⟨r₂, h₂⟩ : ∃ r, opcondLoop (setDiag b c) r₁.line = r := ⟨_, rfl⟩
  have q₁ := idleLoop_quiet h₁
  have q₂ := opcondLoop_quiet h₂
  cases hs₁ : r₁.success with
  | false =>
    rw [cardInitRun_idleExhausted h₁ hs₁, cardInitRun_idleExhausted q₁ hs₁]
    simp only [InitRun.quiet, withoutDiags_append, withoutDiags_prefixEvents]
    rfl
  | true =>
    cases hs₂ : r₂.success with
    | false =>
      rw [cardInitRun_opcondExhausted h₁ hs₁ h₂ hs₂, cardInitRun_opcondExhausted q₁ hs₁ q₂ hs₂]
      simp only [InitRun.quiet, withoutDiags_append, withoutDiags_prefixEvents]
      rfl
    | true =>
      rw [cardInitRun_blocklen h₁ hs₁ h₂ hs₂, cardInitRun_blocklen q₁ hs₁ q₂ hs₂]
      simp only [InitRun.quiet, withoutDiags_append, withoutDiags_prefixEvents, withoutDiags_blocklenEvents]
      rfl

/-! ### The requests -/

/-- The state with DIAG_ENABLE at `b`. -/
def State.withDiag (b : Bool) (s : State) : State := { s with cfg := setDiag b s.cfg }

/-- From `s` on, whatever DIAG_ENABLE is, `i` completes with the response `resp`, leaves MISO at `l` and records `es` and
diagnostics. -/
def AnswersAlike (i : Instr) (s : State) (resp : Half) (l : Line) (es : List Event) : Prop :=
  ∀ b, ∃ t, Reaches i (s.withDiag b) t ∧ t.ctl = .idle ∧ t.resp = resp ∧ t.miso = l ∧
    withoutDiags (eventsSince (s.withDiag b) t) = es

variable {i : Instr} {s : State}

theorem initBus_answersAlike (hp : s.point = .start) :
    AnswersAlike .initBus s 0x0000#16 s.miso
      [.pin .csN true, .pin .sclk false, .pin .mosi true, .complete 0x0000#16] := by
  intro b
  refine ⟨_, ⟨4, initBus_run (s := s.withDiag b) hp⟩, rfl, rfl, rfl, ?_⟩
  rw [eventsSince_of_trace (es := [.pin .csN true, .pin .sclk false, .pin .mosi true, .complete 0x0000#16]) rfl]
  rfl

theorem csRequest_answersAlike (v : Bool) (hp : s.point = .start) (hc : s.configured = true) :
    AnswersAlike (csRequest v) s 0x0000#16 s.miso [.pin .csN v, .complete 0x0000#16] := by
  intro b
  refine ⟨_, ⟨2, (csRequest_run v (s := s.withDiag b) hp hc).2⟩, rfl, rfl, rfl, ?_⟩
  rw [eventsSince_of_trace (es := [.pin .csN v, .complete 0x0000#16]) rfl]
  rfl

/-- A completion adds itself to what the request has recorded besides diagnostics. -/
theorem withoutDiags_complete {t u : State} {es : List Event} (h : u.trace = es.reverse ++ t.trace) (st : Status)
    (data : Byte) :
    withoutDiags (eventsSince t (complete st data u)) = withoutDiags es ++ [.complete (response st data)] := by
  rw [eventsSince_complete h, withoutDiags_append]
  rfl

theorem xchg_answersAlike {out : Byte} (hi : i.expand = .xchg out) (hp : s.point = .start) (hc : s.configured = true)
    (hd : DoneAtOnce s) (hm : MisoGiven s) :
    AnswersAlike i s (response .ok s.miso.byte) (s.miso.skip 8)
      (exchangeEvents out s.miso.byte ++ [.complete (response .ok s.miso.byte)]) := by
  intro b
  refine ⟨complete .ok s.miso.byte (exchanged out .raw (s.withDiag b)), ?_, rfl, rfl, rfl,
    withoutDiags_complete (es := exchangeEvents out s.miso.byte) rfl _ _⟩
  exact .start hp (firstStep_xchg (s := s.withDiag b) hi hc ▸ .exchange hd hm (.refl i _))

theorem sendCmd_answersAlike {cmd : Byte} {arg : Arg} {crc win : Byte} (hi : i.expand = .sendCmd cmd arg crc win)
    (hp : s.point = .start) (hc : s.configured = true) (hd : DoneAtOnce s) (hm : MisoGiven s) :
    let k : Command := ⟨cmd, arg, crc, win⟩
    AnswersAlike i s (response .ok (commandResult k s.miso)) (commandLine k s.miso)
      (commandEvents false k s.miso ++ [.complete (response .ok (commandResult k s.miso))]) := by
  intro k b
  obtain ⟨u, _, _, _, _, hmiso, htrace, hreach⟩ := sendCmd_run (s := s.withDiag b) hi hp hc hd hm
  refine ⟨_, hreach, rfl, rfl, hmiso, ?_⟩
  rw [withoutDiags_complete htrace, withoutDiags_commandEvents]
  rfl

theorem cardInit_answersAlike (hp : s.point = .start) (hc : s.configured = true) (hd : DoneAtOnce s) (hm : MisoGiven s)
    (hv : s.cfg.valid = true) :
    let r := cardInitRun (setDiag false s.cfg) s.miso
    AnswersAlike .cardInit s (response .ok r.outcome.byte) r.line
      (r.events ++ [.complete (response .ok r.outcome.byte)]) := by
  intro r b
  obtain ⟨u, hu, hreach⟩ := cardInit_run (s := s.withDiag b) hp hc hd hm hv
  have hr : r = (cardInitRun (setDiag b s.cfg) s.miso).quiet := (cardInitRun_quiet s.cfg b s.miso).symm
  rw [hr]
  exact ⟨_, hreach, rfl, rfl, hu.miso, withoutDiags_complete hu.trace _ _⟩

/-- Settles O41: request by request, one response, one MISO line and one history without diagnostics for both values of
DIAG_ENABLE. -/
theorem diagnosticsDoNotSteer : Obligations.DiagnosticsDoNotSteer := by
  intro i s b _ hp hc hd hm hv
  obtain ⟨resp, l, es, alike⟩ : ∃ resp l es, AnswersAlike i s resp l es := by
    cases i with
    | initBus => exact ⟨_, _, _, initBus_answersAlike hp⟩
    | select => exact ⟨_, _, _, csRequest_answersAlike false hp hc⟩
    | deselect => exact ⟨_, _, _, csRequest_answersAlike true hp hc⟩
    | xchg out => exact ⟨_, _, _, xchg_answersAlike rfl hp hc hd hm⟩
    | fill => exact ⟨_, _, _, xchg_answersAlike rfl hp hc hd hm⟩
    | sendCmd cmd arg crc win => exact ⟨_, _, _, sendCmd_answersAlike rfl hp hc hd hm⟩
    | goIdleState => exact ⟨_, _, _, sendCmd_answersAlike rfl hp hc hd hm⟩
    | sendOpCond => exact ⟨_, _, _, sendCmd_answersAlike rfl hp hc hd hm⟩
    | setBlocklen n => exact ⟨_, _, _, sendCmd_answersAlike rfl hp hc hd hm⟩
    | cardInit => exact ⟨_, _, _, cardInit_answersAlike hp hc hd hm hv⟩
  obtain ⟨t, ⟨n, hn⟩, hidle, hresp, hmiso, hes⟩ := alike s.cfg.diagEnable
  obtain ⟨t', ⟨n', hn'⟩, hidle', hresp', hmiso', hes'⟩ := alike b
  exact ⟨n, t, n', t', hn, hn', hidle, hidle', hresp'.trans hresp.symm, hmiso'.trans hmiso.symm, hes'.trans hes.symm⟩

end Sys2Proof.Machine
end

section
/-! CARD_INIT one step at a time (42_card_init.md R173 to R184, R194): how it begins, what each command's result decides, and
where the retry loops end. -/

namespace Sys2Proof.Machine

/-! ### The operations it is made of -/

/-- `outcome` is read back as the code that was recorded (60_exceptions.md R237). -/
@[simp] theorem conclude_readOutcome (st : Status) (o : InitOutcome) (s : State) :
    (conclude st o s).readOutcome = some o.code := by
  cases o <;> rfl

section

/-! What the start of `SendCommand` leaves of the initialiser's registers, of `ctl` and of the frame registers it latched. -/

variable {c : Caller} {k : Command} {s : State}

@[simp] theorem enterCommand_initPhase : (enterCommand c k s).initPhase = s.initPhase :=
  emitThen_cases (P := fun t => t.initPhase = s.initPhase) (fun _ => rfl) (fun _ => rfl)
@[simp] theorem enterCommand_attempt : (enterCommand c k s).attempt = s.attempt :=
  emitThen_cases (P := fun t => t.attempt = s.attempt) (fun _ => rfl) (fun _ => rfl)
@[simp] theorem enterCommand_ctl : (enterCommand c k s).ctl = s.ctl :=
  emitThen_cases (P := fun t => t.ctl = s.ctl) (fun _ => rfl) (fun _ => rfl)
@[simp] theorem enterCommand_chan : (enterCommand c k s).chan = (latch k s).chan :=
  emitThen_cases (P := fun t => t.chan = (latch k s).chan) (fun _ => rfl) (fun _ => rfl)

/-- `SendCommand` returns the scanner's register to its caller: after `DiagEnd`, or with DIAG_ENABLE off in the step after the
release of `CS_N` (log 9). -/
theorem exec_commandEnded (i : Instr)
    (h : (s.cfg.diagEnable = false ∧ s.point = .within (.released c)) ∨ s.point = .within (.ended c)) :
    exec i s = .next (commandReturned c s.chan.scanLast (forgetChannel s)) := by
  rcases h with ⟨hd, hp⟩ | hp
  · exact (exec_within i hp).trans (congrArg _ (commandReleased_silent hd))
  · exact exec_within i hp

end

/-! ### Its steps -/

/-- Settles O51: admitted, CARD_INIT releases `CS_N`; its first loop then has a filler to send (`prefixLoop_more`). -/
theorem cardInitBegins : Obligations.CardInitBegins := by
  intro s hp hc
  have first : firstStep .cardInit s = beginCardInit s := admitted_configured hc
  refine ⟨(exec_at_start .cardInit hp).trans (congrArg _ first), fun hpre => ?_⟩
  rw [execTimes_start hp, first, execTimes_within (g := .prefixStart) rfl]
  have high : bitOf filler 7 = true := by decide
  rw [resume, beginPrefix, prefixLoop_more (by exact hpre)]
  simp only [beginExchange, driveBit, high]
  rfl

/-- Settles O52: the result goes back to its loop (`exec_commandEnded`), which compares it with the one it accepts. -/
theorem retryResultsDecide : Obligations.RetryResultsDecide := by
  refine ⟨fun s h => ⟨_, exec_commandEnded .cardInit h, fun hgood => ?_, fun hbad => ?_⟩,
    fun s h => ⟨_, exec_commandEnded .cardInit h, fun hgood => ?_, fun hbad => ?_⟩⟩
  · simp [commandReturned, idleResult_good hgood, opcondAttempt, Command.opcond]
  · simp [commandReturned, idleResult_bad hbad]
  · simp [commandReturned, opcondResult_good hgood, sendBlocklen, Command.blocklen]
  · simp [commandReturned, opcondResult_bad hbad]

/-- Settles O53: after a backoff the loop concludes at its limit (`idleRetry_limit`, `opcondRetry_limit`), else it sends again. -/
theorem retryLimitsEndTheLoops : Obligations.RetryLimitsEndTheLoops := by
  refine ⟨fun s hp => ⟨_, exec_within .cardInit hp, fun hlimit => ?_, fun hmore => ?_⟩,
    fun s hp => ⟨_, exec_within .cardInit hp, fun hlimit => ?_, fun hmore => ?_⟩⟩
  · rw [resume, idleRetry_limit hlimit]
    exact ⟨rfl, rfl, rfl, conclude_readOutcome .ok .idleExhausted s, rfl⟩
  · simp [resume, idleRetry_again hmore, idleAttempt, Command.idle]
  · rw [resume, opcondRetry_limit hlimit]
    exact ⟨rfl, rfl, rfl, conclude_readOutcome .ok .opcondExhausted s, rfl⟩
  · simp [resume, opcondRetry_again hmore, opcondAttempt, Command.opcond]

/-- How SET_BLOCKLEN's result `r` ends CARD_INIT (R182 to R184). -/
theorem judgeBlocklen_decides (r : Byte) (s : State) :
    (judgeBlocklen r s).ctl = .idle ∧ (judgeBlocklen r s).respValid = true ∧
      (s.cfg.blocklenCheck = false ∨ r = 0x00#8 → (judgeBlocklen r s).resp = 0x0000#16 ∧
        (judgeBlocklen r s).initPhase = .ready ∧ (judgeBlocklen r s).readOutcome = some 0) ∧
      (s.cfg.blocklenCheck = true → r ≠ 0x00#8 → (judgeBlocklen r s).resp = 0x00FD#16 ∧
        (judgeBlocklen r s).initPhase = .failed ∧ (judgeBlocklen r s).readOutcome = some (-3)) := by
  rw [judgeBlocklen_eq]
  refine ⟨rfl, rfl, fun hready => ?_, fun hcheck hr => ?_⟩
  · rw [if_neg (by simpa [or_iff_not_imp_left] using hready)]
    exact ⟨rfl, rfl, conclude_readOutcome .ok .ready s⟩
  · rw [if_pos (by simp [hcheck, hr])]
    exact ⟨rfl, rfl, conclude_readOutcome .ok .blocklenRejected s⟩

/-- Settles O54: with DIAG_ENABLE the result is emitted before it decides, else it decides at once (`judgeBlocklen_decides`). -/
theorem blocklenResultDecides : Obligations.BlocklenResultDecides := by
  intro s
  refine ⟨fun hd hp => ⟨_, exec_commandEnded .cardInit (.inl ⟨hd, hp⟩), ?_⟩,
    fun hd hp => ⟨_, exec_commandEnded .cardInit (.inr hp), ?_⟩, fun r hp => ⟨_, exec_within .cardInit hp, ?_⟩⟩
  · have now : commandReturned .blocklen s.chan.scanLast (forgetChannel s) =
        judgeBlocklen s.chan.scanLast (forgetChannel s) := emitThen_off hd
    rw [now]
    exact judgeBlocklen_decides _ (forgetChannel s)
  · have report : commandReturned .blocklen s.chan.scanLast (forgetChannel s) =
        ((forgetChannel s).record (.diag (.blocklen s.chan.scanLast))).goto (.reported s.chan.scanLast) := emitThen_on hd
    rw [report]
    exact ⟨rfl, rfl⟩
  · exact judgeBlocklen_decides r s

end Sys2Proof.Machine
end

section
/-! Where one step of a request leads, said once for every operation: to a place of a sequence, `outcome` kept (42_card_init.md
R187) and timed out only by a poll limit (40_transport.md R118), or to a completion. From it the frame of CARD_INIT, and what a
timeout inside it does (R188). -/

namespace Sys2Proof.Machine

/-! ### The terms -/

/-- From `s` the request stands at a place in `t`, `outcome` as it was; with no poll limit it is not a timed-out place. -/
def GoesOn (s t : State) : Prop :=
  ∃ g, t.point = .within g ∧ (s.cfg.pollLimit = none → ∀ site, g ≠ .timedOut site) ∧ t.outcome = s.outcome ∧
    t.outcomeValid = s.outcomeValid

/-- From `s` the request has completed in `t`. -/
def Completes (s t : State) : Prop := t.point = .start ∧ ∃ r, t.trace = .complete r :: s.trace

/-- Where a step leads. -/
def Leads (s t : State) : Prop := GoesOn s t ∨ Completes s t

section

variable {s t : State}

theorem leads_to {g : Seg} (hp : t.point = .within g) (ho : t.outcome = s.outcome)
    (hv : t.outcomeValid = s.outcomeValid) (hg : ∀ site, g ≠ .timedOut site := by nofun) : Leads s t :=
  .inl ⟨g, hp, fun _ => hg, ho, hv⟩

theorem Leads.not_timedOut (h : Leads s t) (hlimit : s.cfg.pollLimit = none) (site : Site) :
    t.point ≠ .within (.timedOut site) := by
  rintro hp
  rcases h with ⟨g, hg, hnone, _⟩ | ⟨hstart, _⟩
  · exact hnone hlimit site (Point.within.inj (hg.symm.trans hp))
  · cases hstart.symm.trans hp

theorem Leads.outcome_eq (h : Leads s t) (hrun : ∀ r, t.trace ≠ .complete r :: s.trace) :
    t.outcome = s.outcome ∧ t.outcomeValid = s.outcomeValid := by
  rcases h with ⟨_, _, _, ho, hv⟩ | ⟨_, r, hr⟩
  · exact ⟨ho, hv⟩
  · exact absurd hr (hrun r)

/-! ### The primitives and the handshake -/

theorem pinWrite_leads {g : Seg} (p : OutPin) (v : Bool) (s : State) (hg : ∀ site, g ≠ .timedOut site := by nofun) :
    Leads s ((pinWrite p v s).goto g) :=
  leads_to rfl (pinWrite_outcome p v s) (pinWrite_outcomeValid p v s) hg

theorem emitThen_leads {d : Diag} {g : Seg} {k : State → State} (hk : Leads s (k s))
    (hg : ∀ site, g ≠ .timedOut site := by nofun) : Leads s (emitThen d g k s) :=
  emitThen_cases (fun _ => leads_to rfl rfl rfl hg) (fun _ => hk)

theorem complete_leads (st : Status) (data : Byte) (s : State) : Leads s (complete st data s) := .inr ⟨rfl, _, rfl⟩

theorem conclude_leads (st : Status) (o : InitOutcome) (s : State) : Leads s (conclude st o s) := .inr ⟨rfl, _, rfl⟩

theorem raise_timeout_leads (site : Site) (s : State) : Leads s (raise (.timeout site) s) := by
  cases site with
  | raw => exact complete_leads .timeout 0 s
  | prefixByte => exact pinWrite_leads .csN true s
  | frame c => exact pinWrite_leads .csN true s
  | window c => exact pinWrite_leads .csN true s

theorem reraise_leads (c : Caller) (s : State) : Leads s (reraise c s) := by
  cases c with
  | host => exact complete_leads .timeout 0 (forgetChannel s)
  | idle => exact pinWrite_leads .csN true (forgetChannel s)
  | opcond => exact pinWrite_leads .csN true (forgetChannel s)
  | blocklen => exact pinWrite_leads .csN true (forgetChannel s)

/-! ### The bit engine -/

theorem driveBit_leads (i : Fin 8) (site : Site) (s : State) : Leads s (driveBit i site s) :=
  pinWrite_leads .mosi _ { s with bitIdx := i }

theorem beginExchange_leads (out : Byte) (site : Site) (s : State) : Leads s (beginExchange out site s) :=
  driveBit_leads 7 site { s with txSr := out }

theorem pollDone_leads (site : Site) (s : State) : Leads s (pollDone site s) := leads_to rfl rfl rfl

/-- The one operation that goes to a timed-out place. -/
theorem pollAgain_leads (site : Site) (s : State) : Leads s (pollAgain site s) :=
  pollAgain_cases (fun _ => pollDone_leads site s) (fun _ _ _ => pollDone_leads site { s with pollCnt := s.pollCnt + 1 })
    (fun _ hl _ => .inl ⟨_, rfl, fun hnone => absurd (hl.symm.trans hnone) nofun, rfl, rfl⟩)

theorem engineStep_leads (x : XferStep) (site : Site) (s : State) : Leads s (engineStep x site s) := by
  cases x with
  | rise => exact pinWrite_leads .sclk true s
  | settle => exact leads_to rfl rfl rfl
  | poll => exact pollDone_leads site { s with eng := .poll, pollCnt := _ }
  | repoll => exact pollAgain_leads site s
  | sample => exact leads_to rfl rfl rfl
  | fall => exact pinWrite_leads .sclk false s

theorem giveUp_leads (site : Site) (s : State) : Leads s (giveUp site s) :=
  raise_timeout_leads site { s with eng := .idle, rxSr := _, freeCount := _ }

/-! ### The command channel -/

theorem selectCard_leads (c : Caller) (s : State) : Leads s (selectCard c s) := pinWrite_leads .csN false s

theorem enterCommand_leads (c : Caller) (k : Command) (s : State) : Leads s (enterCommand c k s) :=
  emitThen_leads (s := latch k s) (selectCard_leads c (latch k s))

theorem sendFrameByte_leads (k : Fin 6) (c : Caller) (s : State) : Leads s (sendFrameByte k c s) :=
  beginExchange_leads _ (.frame c) { s with chan := _ }

theorem windowLoop_leads (c : Caller) (s : State) : Leads s (windowLoop c s) :=
  windowLoop_cases (fun _ => beginExchange_leads filler (.window c) s) (fun _ => pinWrite_leads .csN true s)

theorem frameByteDone_leads (c : Caller) (s : State) : Leads s (frameByteDone c s) :=
  frameByteDone_cases (fun _ => sendFrameByte_leads _ c s) (fun _ => windowLoop_leads c { s with chan := _ })

theorem scanByte_leads (c : Caller) (s : State) : Leads s (scanByte c s) := windowLoop_leads c { s with chan := _ }

/-! ### The card initialiser -/

theorem idleAttempt_leads (s : State) : Leads s (idleAttempt s) :=
  enterCommand_leads .idle _ { s with initPhase := _, attempt := _ }

theorem opcondAttempt_leads (s : State) : Leads s (opcondAttempt s) :=
  enterCommand_leads .opcond _ { s with initPhase := _, attempt := _ }

theorem sendBlocklen_leads (s : State) : Leads s (sendBlocklen s) := enterCommand_leads .blocklen _ { s with initPhase := _ }

theorem prefixLoop_leads (s : State) : Leads s (prefixLoop s) :=
  prefixLoop_cases (fun _ => beginExchange_leads filler .prefixByte s) (fun _ => idleAttempt_leads { s with attempt := 0 })

theorem idleResult_leads (r : Byte) (s : State) : Leads s (idleResult r s) :=
  idleResult_cases (opcondAttempt_leads { s with attempt := 0 }) (leads_to rfl rfl rfl)

theorem idleRetry_leads (s : State) : Leads s (idleRetry s) :=
  idleRetry_cases (fun _ => conclude_leads .ok .idleExhausted s) (fun _ => idleAttempt_leads s)

theorem opcondResult_leads (r : Byte) (s : State) : Leads s (opcondResult r s) :=
  opcondResult_cases (sendBlocklen_leads s) (leads_to rfl rfl rfl)

theorem opcondRetry_leads (s : State) : Leads s (opcondRetry s) :=
  opcondRetry_cases (fun _ => conclude_leads .ok .opcondExhausted s) (fun _ => opcondAttempt_leads s)

theorem judgeBlocklen_leads (r : Byte) (s : State) : Leads s (judgeBlocklen r s) := by
  rw [judgeBlocklen_eq]
  exact conclude_leads .ok _ s

theorem commandEnded_leads (c : Caller) (s : State) : Leads s (commandEnded c s) := by
  cases c with
  | host => exact complete_leads .ok _ (forgetChannel s)
  | idle => exact idleResult_leads _ (forgetChannel s)
  | opcond => exact opcondResult_leads _ (forgetChannel s)
  | blocklen => exact emitThen_leads (s := forgetChannel s) (judgeBlocklen_leads _ (forgetChannel s))

/-! ### The sequencer and the requests' beginnings -/

theorem exchangeReturned_leads (site : Site) (s : State) : Leads s (exchangeReturned site s) := by
  cases site with
  | raw => exact complete_leads .ok s.rxSr s
  | prefixByte => exact prefixLoop_leads { s with prefixLeft := _ }
  | frame c => exact frameByteDone_leads c s
  | window c => exact emitThen_leads (scanByte_leads c s)

theorem bitDone_leads (site : Site) (s : State) : Leads s (bitDone site s) :=
  bitDone_cases (fun _ => driveBit_leads _ site s) (fun _ => exchangeReturned_leads site { s with eng := .idle })

theorem resume_leads (g : Seg) (s : State) : Leads s (resume g s) := by
  cases g with
  | initSclk => exact pinWrite_leads .sclk false s
  | initMosi => exact pinWrite_leads .mosi true s
  | initDone => exact complete_leads .ok 0 { s with configured := true }
  | acknowledge => exact complete_leads .ok 0 s
  | xfer x site => exact engineStep_leads x site s
  | fallen site => exact bitDone_leads site s
  | timedOut site => exact giveUp_leads site s
  | announced c => exact selectCard_leads c s
  | selected c => exact sendFrameByte_leads 0 c s
  | mirrored c => exact scanByte_leads c s
  | released c => exact emitThen_leads (commandEnded_leads c s)
  | ended c => exact commandEnded_leads c s
  | aborted c => exact reraise_leads c s
  | prefixStart => exact prefixLoop_leads { s with prefixLeft := _ }
  | idleBackedOff => exact idleRetry_leads s
  | opcondBackedOff => exact opcondRetry_leads s
  | reported r => exact judgeBlocklen_leads r s
  | abandoned => exact conclude_leads .timeout .timedOut s

theorem admitted_leads {first : State → State} (hf : Leads s (first s)) : Leads s (admitted first s) :=
  admitted_cases (fun _ => hf) (fun _ => complete_leads .notConfigured 0 s)

theorem firstStep_leads (i : Instr) (s : State) : Leads s (firstStep i s) := by
  cases i with
  | initBus => exact pinWrite_leads .csN true s
  | select => exact admitted_leads (pinWrite_leads .csN false s)
  | deselect => exact admitted_leads (pinWrite_leads .csN true s)
  | xchg out => exact admitted_leads (beginExchange_leads out .raw s)
  | sendCmd cmd arg crc win => exact admitted_leads (enterCommand_leads .host _ s)
  | cardInit => exact admitted_leads (pinWrite_leads .csN true { s with initPhase := _ })
  | fill => exact admitted_leads (beginExchange_leads filler .raw s)
  | goIdleState => exact admitted_leads (enterCommand_leads .host _ s)
  | sendOpCond => exact admitted_leads (enterCommand_leads .host _ s)
  | setBlocklen n => exact admitted_leads (enterCommand_leads .host _ s)

/-- One step of an instruction, wherever the block stands. -/
theorem exec_leads {i : Instr} (h : exec i s = .next t) : Leads s t := by
  cases hp : s.point with
  | start =>
    cases (exec_at_start i hp).symm.trans h
    exact firstStep_leads i s
  | within g =>
    cases (exec_within i hp).symm.trans h
    exact resume_leads g s

end

/-! ### CARD_INIT -/

/-- Settles O58: CARD_INIT writes neither `configured` nor what the handshake keeps (`exec_goes`), and records an outcome only
as it completes (`exec_leads`). -/
theorem cardInitFrame : Obligations.CardInitFrame := by
  intro s t hs h
  have hgoes : Goes 0x06#8 s t := exec_goes hs h
  have hcfg : t.cfg = s.cfg := by
    rcases exec_cases hs h with ⟨_, rfl⟩ | ⟨g, _, rfl⟩
    · exact (firstStep_addsOneEvent .cardInit s).1
    · exact (resume_addsOneEvent g s).1
  obtain ⟨hreq, hhost⟩ : t.req = s.req ∧ t.host = s.host := by
    rcases hgoes with ⟨_, hhost, hreq, _⟩ | ⟨_, hhost, hreq, _⟩ <;> exact ⟨hreq, hhost⟩
  exact ⟨hgoes.configured_eq (by decide), hreq, hcfg, hhost, (exec_leads h).outcome_eq⟩

/-- A command of CARD_INIT hands its timeout to the handler, which releases `CS_N` once more (R188). -/
theorem reraise_cardInit {c : Caller} (hc : c ≠ .host) (s : State) :
    reraise c s = (releaseCS (forgetChannel s)).goto .abandoned := by
  cases c with
  | host => exact absurd rfl hc
  | idle => rfl
  | opcond => rfl
  | blocklen => rfl

theorem giveUp_inCommand {c : Caller} {site : Site} (hsite : site ∈ [.frame c, .window c]) (s : State) :
    ∃ u, giveUp site s = (releaseCS u).goto (.aborted c) ∧ u.trace = s.trace := by
  simp only [List.mem_cons, List.not_mem_nil, or_false] at hsite
  rcases hsite with rfl | rfl <;> exact ⟨_, rfl, rfl⟩

/-- Settles O29: a deselected filler goes to CARD_INIT's handler at once, a command after its own release of `CS_N`
(`reraise_cardInit`); with no poll limit no step leads to a timed-out place (`exec_leads`). -/
theorem timeoutEndsCardInit : Obligations.TimeoutEndsCardInit := by
  refine ⟨fun s hp => ?_, fun s c site hc hsite hp => ?_,
    fun i s t site hlimit h => (exec_leads h).not_timedOut hlimit site⟩
  · exact ⟨_, (execTimes_within hp).trans (execTimes_within (g := .abandoned) rfl), rfl, rfl,
      conclude_readOutcome .timeout .timedOut _, rfl, rfl, rfl, rfl⟩
  · obtain ⟨u, hu, htrace⟩ := giveUp_inCommand hsite s
    refine ⟨conclude .timeout .timedOut ((releaseCS (forgetChannel ((releaseCS u).goto (.aborted c)))).goto .abandoned), ?_,
      rfl, rfl, conclude_readOutcome .timeout .timedOut _, rfl, rfl, rfl, ?_⟩
    · rw [execTimes_within hp, resume, hu, execTimes_within (g := .aborted c) rfl, resume, reraise_cardInit hc,
        execTimes_within (g := .abandoned) rfl]
      rfl
    · rw [← htrace]
      rfl

end Sys2Proof.Machine
end

section
/-! A whole CARD_INIT when every bit completes at the first poll: its run is the pseudocode of 42_card_init.md R185
(`cardInit_run`), and what is counted in it (R189) is counted in the pseudocode's events, sequence by sequence. -/

namespace Sys2Proof.Machine

/-- Settles O55: what `cardInit_run` leaves before the completion, and what the completion writes. -/
theorem cardInitRunsItsPseudocode : Obligations.CardInitRunsItsPseudocode := by
  intro s hp hc hd hm hv r
  obtain ⟨u, hu, n, hn⟩ := cardInit_run hp hc hd hm hv
  have hist : (conclude .ok r.outcome u).history = s.history ++ r.events ++ [.complete (response .ok r.outcome.byte)] := by
    simp [State.history, hu.trace, r]
  exact ⟨n, _, hn, rfl, rfl, rfl, rfl, rfl, rfl, rfl, hu.attempt, hu.miso, hu.csN, hu.sclk, hu.eng,
    hu.beside.configured.trans hc, hu.beside.cfg, hu.beside.req, hu.beside.host, hist⟩

/-! ### What is counted -/

/-- The chip-select levels of `n` commands. -/
def selections (n : Nat) : List Bool := (List.replicate n [false, true]).flatten

theorem selections_append (m n : Nat) : selections m ++ selections n = selections (m + n) := by
  rw [selections, selections, selections, List.replicate_add, List.flatten_append]

/-- The events `es` hold `m` MISO samples, the chip-select levels `cs` and `b` backoffs. -/
def Tally (es : List Event) (m : Nat) (cs : List Bool) (b : Nat) : Prop :=
  samples .miso es = m ∧ pinLevels .csN es = cs ∧ backoffs es = b

theorem Tally.append {es es' : List Event} {m m' b b' : Nat} {cs cs' : List Bool} (h : Tally es m cs b)
    (h' : Tally es' m' cs' b') : Tally (es ++ es') (m + m') (cs ++ cs') (b + b') := by
  obtain ⟨rfl, rfl, rfl⟩ := h
  obtain ⟨rfl, rfl, rfl⟩ := h'
  exact ⟨List.countP_append, List.filterMap_append, List.countP_append⟩

/-- The same counts, written otherwise. -/
theorem Tally.congr {es : List Event} {m m' b b' : Nat} {cs cs' : List Bool} (h : Tally es m cs b) (hm : m = m')
    (hcs : cs = cs') (hb : b = b') : Tally es m' cs' b' :=
  hm ▸ hcs ▸ hb ▸ h

theorem Tally.flatMap {α : Type} {f : α → List Event} {m : Nat} (h : ∀ a, Tally (f a) m [] 0) (as : List α) :
    Tally (as.flatMap f) (as.length * m) [] 0 := by
  induction as with
  | nil => rw [List.length_nil, Nat.zero_mul]; exact ⟨rfl, rfl, rfl⟩
  | cons a as ih =>
    rw [List.flatMap_cons, List.length_cons]
    exact ((h a).append ih).congr (by ring) rfl rfl

theorem tally_pin_csN (v : Bool) : Tally [.pin .csN v] 0 [v] 0 := ⟨rfl, rfl, rfl⟩

theorem tally_backoff : Tally [.delay .backoff] 0 [] 1 := ⟨rfl, rfl, rfl⟩

theorem tally_complete (r : Half) : Tally [.complete r] 0 [] 0 := ⟨rfl, rfl, rfl⟩

theorem tally_diagEvent (enabled : Bool) (d : Diag) : Tally (diagEvent enabled d) 0 [] 0 := by
  cases enabled <;> exact ⟨rfl, rfl, rfl⟩

/-- One MISO sample a bit, whatever it reads (40_transport.md R121). -/
theorem tally_bitEvents (o i : Bool) : Tally (bitEvents o i) 1 [] 0 := by
  cases i <;> exact ⟨rfl, rfl, rfl⟩

theorem tally_exchangeEvents (out inn : Byte) : Tally (exchangeEvents out inn) 8 [] 0 :=
  Tally.flatMap (m := 1) (fun _ => tally_bitEvents _ _) [7, 6, 5, 4, 3, 2, 1, 0]

/-! ### A command -/

@[simp] theorem Line.bytes_length (n : Nat) (l : Line) : (l.bytes n).length = n := by
  induction n generalizing l with
  | zero => rfl
  | succ n ih => rw [Line.bytes, List.length_cons, ih]

theorem tally_frame (k : Command) (l : Line) :
    Tally (List.zipWith exchangeEvents k.frame (l.bytes 6)).flatten 48 [] 0 := by
  have h := Tally.flatMap (fun p : Byte × Byte => tally_exchangeEvents p.1 p.2) (k.frame.zip (l.bytes 6))
  rw [List.flatMap_def, List.length_zip, Line.bytes_length] at h
  rwa [← List.map_uncurry_zip_eq_zipWith]

theorem tally_window (enabled : Bool) (inns : List Byte) :
    Tally (inns.flatMap fun b => exchangeEvents 0xFF#8 b ++ diagEvent enabled (.resp b)) (inns.length * 8) [] 0 :=
  Tally.flatMap (fun _ => (tally_exchangeEvents _ _).append (tally_diagEvent _ _)) inns

/-- A command exchanges 6 + win bytes between one pair of chip-select levels (41_command_channel.md R151, R152). -/
theorem tally_commandEvents (enabled : Bool) (k : Command) (l : Line) :
    Tally (commandEvents enabled k l) (8 * (6 + k.win.toNat)) (selections 1) 0 := by
  have h := (((((tally_diagEvent enabled (.cmd k.cmd)).append (tally_pin_csN false)).append (tally_frame k l)).append
    (tally_window enabled ((l.skip 48).bytes k.win.toNat))).append (tally_pin_csN true)).append
    (tally_diagEvent enabled .done)
  exact h.congr (by rw [Line.bytes_length]; ring) rfl rfl

/-! ### A retry loop -/

/-- A retry loop with `left` attempts allowed has made `a` of them with the command `k`: one backoff for each that failed, and
all that are allowed if none succeeded (42_card_init.md R177, R178, R181). -/
structure LoopTally (k : Command) (left : Nat) (r : LoopRun) (a : Nat) : Prop where
  within : a ≤ left
  exhausted : r.success = false → a = left ∧ Tally r.events (a * (8 * (6 + k.win.toNat))) (selections a) a
  succeeded : r.success = true → 1 ≤ a ∧ Tally r.events (a * (8 * (6 + k.win.toNat))) (selections a) (a - 1)

theorem retryLoop_tally (enabled : Bool) (k : Command) (good : Byte) (left made : Nat) (l : Line) :
    ∃ a, (retryLoop enabled k good left made l).attempts = made + a ∧
      LoopTally k left (retryLoop enabled k good left made l) a := by
  induction left generalizing made l with
  | zero =>
    have none : Tally [] (0 * (8 * (6 + k.win.toNat))) (selections 0) 0 := ⟨(Nat.zero_mul _).symm, rfl, rfl⟩
    exact ⟨0, rfl, Nat.le_refl 0, fun _ => ⟨rfl, none⟩, nofun⟩
  | succ left ih =>
    have command := tally_commandEvents enabled k l
    by_cases hg : commandResult k l = good
    · rw [retryLoop, if_pos hg]
      exact ⟨1, rfl, Nat.le_add_left 1 left, nofun, fun _ => ⟨Nat.le_refl 1, command.congr (Nat.one_mul _).symm rfl rfl⟩⟩
    · obtain ⟨a, hattempts, hle, hno, hyes⟩ := ih (made + 1) (commandLine k l)
      rw [retryLoop, if_neg hg]
      generalize retryLoop enabled k good left (made + 1) (commandLine k l) = r at hattempts hno hyes
      have failed {b : Nat} (h : Tally r.events (a * (8 * (6 + k.win.toNat))) (selections a) b) :
          Tally (commandEvents enabled k l ++ [.delay .backoff] ++ r.events) ((a + 1) * (8 * (6 + k.win.toNat)))
            (selections (a + 1)) (b + 1) :=
        ((command.append tally_backoff).append h).congr (by ring)
          (by rw [List.append_nil, selections_append, Nat.add_comm]) (by omega)
      refine ⟨a + 1, by simp only [hattempts]; omega, Nat.succ_le_succ hle, fun hs => ?_, fun hs => ?_⟩
      · obtain ⟨ha, tally⟩ := hno hs
        exact ⟨congrArg _ ha, failed tally⟩
      · obtain ⟨ha, tally⟩ := hyes hs
        exact ⟨Nat.le_add_left 1 a, (failed tally).congr rfl rfl (by omega)⟩

/-! ### The whole sequence -/

theorem tally_prefixEvents (c : Config) (l : Line) : Tally (prefixEvents c l) (8 * c.prefixBytes.toNat) [true] 0 := by
  have h := (tally_pin_csN true).append
    (Tally.flatMap (fun inn => tally_exchangeEvents 0xFF#8 inn) (l.bytes c.prefixBytes.toNat))
  exact h.congr (by rw [Line.bytes_length]; ring) rfl rfl

theorem tally_blocklenEvents (c : Config) (l : Line) :
    Tally (blocklenEvents c l) (8 * (6 + c.winBlocklen.toNat)) (selections 1) 0 :=
  (tally_commandEvents c.diagEnable (Command.blocklen c) l).append (tally_diagEvent _ _)

/-- The rows of R189: by the outcome, the idle attempts `a`, the op-cond attempts `o`, the SET_BLOCKLENs `b` and the backoffs
`n`. -/
def CountRow (c : Config) (a o b n : Nat) : InitOutcome → Prop
  | .ready => b = 1 ∧ 1 ≤ a ∧ 1 ≤ o ∧ n = (a - 1) + (o - 1)
  | .idleExhausted => b = 0 ∧ o = 0 ∧ a = c.idleRetryLimit.toNat ∧ n = a
  | .opcondExhausted => b = 0 ∧ 1 ≤ a ∧ o = c.opcondRetryLimit.toNat ∧ n = (a - 1) + o
  | .blocklenRejected => b = 1 ∧ 1 ≤ a ∧ 1 ≤ o ∧ n = (a - 1) + (o - 1)
  | .timedOut => False

theorem countRow_blocklenOutcome {c : Config} {l : Line} {a o n : Nat} (ha : 1 ≤ a) (ho : 1 ≤ o)
    (hn : n = (a - 1) + (o - 1)) : CountRow c a o 1 n (blocklenOutcome c l) := by
  unfold blocklenOutcome
  split <;> exact ⟨rfl, ha, ho, hn⟩

/-- The MISO samples of `a` idle and `o` op-cond attempts and `b` SET_BLOCKLENs (R189). -/
def initSamples (c : Config) (a o b : Nat) : Nat :=
  8 * (c.prefixBytes.toNat + a * (6 + c.winIdle.toNat) + o * (6 + c.winOpcond.toNat) + b * (6 + c.winBlocklen.toNat))

/-- The pseudocode's counts (R189): where it ends, its events are those of the sequences before. -/
theorem cardInitRun_tally (c : Config) (l : Line) :
    ∃ a o b n, a ≤ c.idleRetryLimit.toNat ∧ o ≤ c.opcondRetryLimit.toNat ∧
      Tally (cardInitRun c l).events (initSamples c a o b) (true :: selections (a + o + b)) n ∧
      CountRow c a o b n (cardInitRun c l).outcome := by
  have before := tally_prefixEvents c l
  obtain ⟨a, _, hale, hano, hayes⟩ := retryLoop_tally c.diagEnable (Command.idle c) 0x01#8 c.idleRetryLimit.toNat 0
    (prefixLine c l)
  rw [← idleLoop] at hano hayes
  generalize h₁ : idleLoop c (prefixLine c l) = r₁ at hano hayes
  cases hs₁ : r₁.success with
  | false =>
    obtain ⟨ha, tally⟩ := hano hs₁
    refine ⟨a, 0, 0, a, hale, Nat.zero_le _, ?_, ?_⟩ <;> rw [cardInitRun_idleExhausted h₁ hs₁]
    · exact (before.append tally).congr (by simp only [initSamples, Command.idle]; ring) rfl (Nat.zero_add _)
    · exact ⟨rfl, rfl, ha, rfl⟩
  | true =>
    obtain ⟨ha, idle⟩ := hayes hs₁
    obtain ⟨o, _, hole, hono, hoyes⟩ := retryLoop_tally c.diagEnable (Command.opcond c) 0x00#8 c.opcondRetryLimit.toNat 0
      r₁.line
    rw [← opcondLoop] at hono hoyes
    generalize h₂ : opcondLoop c r₁.line = r₂ at hono hoyes
    cases hs₂ : r₂.success with
    | false =>
      obtain ⟨ho, opcond⟩ := hono hs₂
      refine ⟨a, o, 0, (a - 1) + o, hale, hole, ?_, ?_⟩ <;> rw [cardInitRun_opcondExhausted h₁ hs₁ h₂ hs₂]
      · exact (before.append (idle.append opcond)).congr (by simp only [initSamples, Command.idle, Command.opcond]; ring)
          (by rw [selections_append]; rfl) (Nat.zero_add _)
      · exact ⟨rfl, ha, ho, rfl⟩
    | true =>
      obtain ⟨ho, opcond⟩ := hoyes hs₂
      refine ⟨a, o, 1, (a - 1) + (o - 1), hale, hole, ?_, ?_⟩ <;> rw [cardInitRun_blocklen h₁ hs₁ h₂ hs₂]
      · exact (before.append (idle.append (opcond.append (tally_blocklenEvents c r₂.line)))).congr
          (by simp only [initSamples, Command.idle, Command.opcond]; ring)
          (by rw [selections_append, selections_append, ← Nat.add_assoc]; rfl) (Nat.zero_add _)
      · exact countRow_blocklenOutcome ha ho rfl

/-- The counts of a run: the completion adds nothing to those of the events before it. -/
theorem tally_conclude {s u : State} {es : List Event} {m b : Nat} {cs : List Bool} (h : Tally es m cs b)
    (ht : u.trace = es.reverse ++ s.trace) (o : InitOutcome) : Tally (eventsSince s (conclude .ok o u)) m cs b := by
  have since : eventsSince s (conclude .ok o u) = es ++ [.complete (response .ok o.byte)] :=
    eventsSince_of_trace (by simp [ht])
  rw [since]
  exact (h.append (tally_complete _)).congr rfl (List.append_nil cs) rfl

/-- Settles O57: the pseudocode's counts (`cardInitRun_tally`), and for each outcome its row. -/
theorem cardInitCounts : Obligations.CardInitCounts := by
  intro s _ hp hc hd hm hv
  obtain ⟨u, hu, n, hn⟩ := cardInit_run hp hc hd hm hv
  obtain ⟨a, o, b, backs, ha, ho, tally, row⟩ := cardInitRun_tally s.cfg s.miso
  obtain ⟨hsamples, hlevels, hbackoffs⟩ := tally_conclude tally hu.trace (cardInitRun s.cfg s.miso).outcome
  refine ⟨n, _, a, o, b, hn, rfl, ?_, ha, ho, hsamples, hlevels, ?_⟩ <;> rw [conclude_readOutcome]
  · generalize (cardInitRun s.cfg s.miso).outcome = out at row ⊢
    cases out with
    | ready => exact .inl rfl
    | idleExhausted => exact .inr (.inl rfl)
    | opcondExhausted => exact .inr (.inr (.inl rfl))
    | blocklenRejected => exact .inr (.inr (.inr rfl))
    | timedOut => exact row.elim
  · rw [hbackoffs]
    generalize (cardInitRun s.cfg s.miso).outcome = out at row ⊢
    cases out with
    | ready => exact ⟨fun _ => row, nofun, nofun⟩
    | idleExhausted => exact ⟨fun h => absurd h (by decide), fun _ => row, nofun⟩
    | opcondExhausted => exact ⟨fun h => absurd h (by decide), nofun, fun _ => row⟩
    | blocklenRejected => exact ⟨fun _ => row, nofun, nofun⟩
    | timedOut => exact row.elim

/-! ### A silent card -/

/-- A line held at 1. -/
def silent : Line := ⟨[], some true⟩

theorem silent_bytes (n : Nat) : silent.bytes n = List.replicate n filler := by
  induction n with
  | zero => rfl
  | succ n ih => exact congrArg _ ih

/-- A window of fillers scans to a filler (41_command_channel.md R148). -/
theorem scan_fillers (n : Nat) : scan (List.replicate n filler) = filler := by
  induction n with
  | zero => rfl
  | succ n ih => exact ih

theorem commandResult_silent (k : Command) : commandResult k silent = filler :=
  (congrArg scan (silent_bytes k.win.toNat)).trans (scan_fillers _)

theorem commandLine_silent (k : Command) : commandLine k silent = silent := by
  simp [commandLine, Line.skip, silent]

theorem retryLoop_silent (enabled : Bool) (k : Command) {good : Byte} (hgood : filler ≠ good) (left made : Nat) :
    (retryLoop enabled k good left made silent).success = false := by
  induction left generalizing made with
  | zero => rfl
  | succ left ih =>
    rw [retryLoop, if_neg (commandResult_silent k ▸ hgood), commandLine_silent]
    exact ih (made + 1)

/-- Settles O56: on a silent line no attempt succeeds (`retryLoop_silent`), so the idle loop's counts are those of its limit. -/
theorem silentCardExhaustsTheIdleLoop : Obligations.SilentCardExhaustsTheIdleLoop := by
  intro s hp hc hd hm hv
  obtain ⟨u, hu, n, hn⟩ := cardInit_run hp hc hd (by simp [MisoGiven, hm]) hv
  have fails : (idleLoop s.cfg (prefixLine s.cfg s.miso)).success = false := by
    have line : prefixLine s.cfg s.miso = silent := by simp [prefixLine, hm, Line.skip, silent]
    rw [line]
    exact retryLoop_silent _ _ (by decide) _ _
  rw [cardInitRun_idleExhausted rfl fails] at hu hn
  obtain ⟨a, hattempts, _, exhausted, _⟩ := retryLoop_tally s.cfg.diagEnable (Command.idle s.cfg) 0x01#8
    s.cfg.idleRetryLimit.toNat 0 (prefixLine s.cfg s.miso)
  obtain ⟨rfl, tally⟩ := exhausted fails
  obtain ⟨_, hlevels, hbackoffs⟩ :=
    tally_conclude ((tally_prefixEvents s.cfg s.miso).append tally) hu.trace .idleExhausted
  have attempts : u.attempt = s.cfg.idleRetryLimit :=
    BitVec.eq_of_toNat_eq (hu.attempt.trans (hattempts.trans (Nat.zero_add _)))
  exact ⟨n, conclude .ok .idleExhausted u, hn, rfl, rfl, rfl, conclude_readOutcome .ok .idleExhausted u, attempts,
    hbackoffs.trans (Nat.zero_add _), hlevels⟩

end Sys2Proof.Machine
end

section
/-! The admission errors (60_exceptions.md R213, R214): past the admission check every operation of a request records a primitive,
or completes with OK or TIMEOUT. -/

namespace Sys2Proof.Machine

/-! ### The operations past admission -/

/-- The newest event of the history is a primitive's, or a completion with OK or TIMEOUT. -/
def Unrefused (t : State) : Prop :=
  ∃ e es, t.trace = e :: es ∧
    (e.isPrimitive = true ∨ ∃ st ∈ [Status.ok, .timeout], ∃ data, e = .complete (response st data))

section

variable {s t : State}

theorem Unrefused.status {r : Half} {es : List Event} (h : Unrefused t) (ht : t.trace = .complete r :: es) :
    r.extractLsb' 8 8 ∈ [0x00#8, 0x03#8] := by
  obtain ⟨e, _, htrace, he⟩ := h
  obtain rfl : e = .complete r := (List.cons.inj (htrace.symm.trans ht)).1
  rcases he with hprim | ⟨st, hst, data, hr⟩
  · cases hprim
  · obtain rfl := Event.complete.inj hr
    exact response_status st data ▸ List.mem_map_of_mem (f := Status.code) hst

theorem pinWrite_unrefused (p : OutPin) (v : Bool) (s : State) (g : Seg) : Unrefused ((pinWrite p v s).goto g) :=
  ⟨.pin p v, _, rfl, .inl rfl⟩

theorem pinRead_unrefused (p : InPin) (s : State) (g : Seg) : Unrefused ((pinRead p s).goto g) :=
  ⟨.sample p _, _, rfl, .inl rfl⟩

theorem delay_unrefused (k : Wait) (s : State) (g : Seg) : Unrefused ((delay k s).goto g) := ⟨.delay k, _, rfl, .inl rfl⟩

theorem emitThen_unrefused {d : Diag} {g : Seg} {k : State → State} (hk : Unrefused (k s)) :
    Unrefused (emitThen d g k s) :=
  emitThen_cases (fun _ => ⟨.diag d, _, rfl, .inl rfl⟩) (fun _ => hk)

theorem complete_unrefused {st : Status} (hst : st ∈ [Status.ok, .timeout]) (data : Byte) (s : State) :
    Unrefused (complete st data s) :=
  ⟨_, _, rfl, .inr ⟨st, hst, data, rfl⟩⟩

theorem conclude_ok_unrefused (o : InitOutcome) (s : State) : Unrefused (conclude .ok o s) :=
  complete_unrefused (by decide) o.byte _

theorem raise_timeout_unrefused (site : Site) (s : State) : Unrefused (raise (.timeout site) s) := by
  cases site with
  | raw => exact complete_unrefused (by decide) 0 s
  | prefixByte => exact pinWrite_unrefused .csN true s .abandoned
  | frame c => exact pinWrite_unrefused .csN true s (.aborted c)
  | window c => exact pinWrite_unrefused .csN true s (.aborted c)

theorem reraise_unrefused (c : Caller) (s : State) : Unrefused (reraise c s) := by
  cases c with
  | host => exact complete_unrefused (by decide) 0 (forgetChannel s)
  | idle => exact pinWrite_unrefused .csN true (forgetChannel s) .abandoned
  | opcond => exact pinWrite_unrefused .csN true (forgetChannel s) .abandoned
  | blocklen => exact pinWrite_unrefused .csN true (forgetChannel s) .abandoned

theorem beginExchange_unrefused (out : Byte) (site : Site) (s : State) : Unrefused (beginExchange out site s) :=
  pinWrite_unrefused .mosi _ _ (.xfer .rise site)

theorem pollAgain_unrefused (site : Site) (s : State) : Unrefused (pollAgain site s) :=
  pollAgain_cases (fun _ => pinRead_unrefused .xferDone s _) (fun _ _ _ => pinRead_unrefused .xferDone _ _)
    (fun _ _ _ => pinWrite_unrefused .sclk false _ (.timedOut site))

theorem engineStep_unrefused (x : XferStep) (site : Site) (s : State) : Unrefused (engineStep x site s) := by
  cases x with
  | rise => exact pinWrite_unrefused .sclk true s (.xfer .settle site)
  | settle => exact delay_unrefused .settle _ (.xfer .poll site)
  | poll => exact pinRead_unrefused .xferDone _ _
  | repoll => exact pollAgain_unrefused site s
  | sample => exact pinRead_unrefused .miso _ (.xfer .fall site)
  | fall => exact pinWrite_unrefused .sclk false s (.fallen site)

theorem enterCommand_unrefused (c : Caller) (k : Command) (s : State) : Unrefused (enterCommand c k s) :=
  emitThen_unrefused (pinWrite_unrefused .csN false (latch k s) (.selected c))

theorem windowLoop_unrefused (c : Caller) (s : State) : Unrefused (windowLoop c s) :=
  windowLoop_cases (fun _ => beginExchange_unrefused filler (.window c) s)
    (fun _ => pinWrite_unrefused .csN true s (.released c))

theorem frameByteDone_unrefused (c : Caller) (s : State) : Unrefused (frameByteDone c s) :=
  frameByteDone_cases (fun _ => beginExchange_unrefused _ (.frame c) _) (fun _ => windowLoop_unrefused c _)

theorem prefixLoop_unrefused (s : State) : Unrefused (prefixLoop s) :=
  prefixLoop_cases (fun _ => beginExchange_unrefused filler .prefixByte s) (fun _ => enterCommand_unrefused .idle _ _)

theorem judgeBlocklen_unrefused (r : Byte) (s : State) : Unrefused (judgeBlocklen r s) :=
  judgeBlocklen_eq r s ▸ conclude_ok_unrefused _ s

theorem commandEnded_unrefused (c : Caller) (s : State) : Unrefused (commandEnded c s) := by
  cases c with
  | host => exact complete_unrefused (by decide) s.chan.scanLast (forgetChannel s)
  | idle => exact idleResult_cases (enterCommand_unrefused .opcond _ _) (delay_unrefused .backoff _ .idleBackedOff)
  | opcond => exact opcondResult_cases (enterCommand_unrefused .blocklen _ _) (delay_unrefused .backoff _ .opcondBackedOff)
  | blocklen => exact emitThen_unrefused (judgeBlocklen_unrefused _ (forgetChannel s))

theorem exchangeReturned_unrefused (site : Site) (s : State) : Unrefused (exchangeReturned site s) := by
  cases site with
  | raw => exact complete_unrefused (by decide) s.rxSr s
  | prefixByte => exact prefixLoop_unrefused _
  | frame c => exact frameByteDone_unrefused c s
  | window c => exact emitThen_unrefused (windowLoop_unrefused c _)

/-- A request past admission is not refused any more, wherever it stands. -/
theorem resume_unrefused (g : Seg) (s : State) : Unrefused (resume g s) := by
  cases g with
  | initSclk => exact pinWrite_unrefused .sclk false s .initMosi
  | initMosi => exact pinWrite_unrefused .mosi true s .initDone
  | initDone => exact complete_unrefused (by decide) 0 _
  | acknowledge => exact complete_unrefused (by decide) 0 s
  | xfer x site => exact engineStep_unrefused x site s
  | fallen site =>
    exact bitDone_cases (fun _ => pinWrite_unrefused .mosi _ _ (.xfer .rise site))
      (fun _ => exchangeReturned_unrefused site _)
  | timedOut site => exact raise_timeout_unrefused site _
  | announced c => exact pinWrite_unrefused .csN false s (.selected c)
  | selected c => exact beginExchange_unrefused _ (.frame c) _
  | mirrored c => exact windowLoop_unrefused c _
  | released c => exact emitThen_unrefused (commandEnded_unrefused c s)
  | ended c => exact commandEnded_unrefused c s
  | aborted c => exact reraise_unrefused c s
  | prefixStart => exact prefixLoop_unrefused _
  | idleBackedOff =>
    exact idleRetry_cases (fun _ => conclude_ok_unrefused .idleExhausted s) (fun _ => enterCommand_unrefused .idle _ _)
  | opcondBackedOff =>
    exact opcondRetry_cases (fun _ => conclude_ok_unrefused .opcondExhausted s)
      (fun _ => enterCommand_unrefused .opcond _ _)
  | reported r => exact judgeBlocklen_unrefused r s
  | abandoned => exact complete_unrefused (by decide) InitOutcome.timedOut.byte _

/-! ### The admission check (30_encoding.md R88) -/

theorem eq_initBus_of_opcode {i : Instr} (h : i.opcode = 0x01#8) : i = .initBus := by
  cases i with
  | initBus => rfl
  | _ => simp [Instr.opcode] at h

theorem firstStep_unconfigured {i : Instr} (hi : i ≠ .initBus) (hc : s.configured = false) :
    firstStep i s = complete .notConfigured 0 s := by
  cases i with
  | initBus => exact absurd rfl hi
  | _ => simp only [firstStep, admitted_refused hc]

theorem admitted_unrefused {first : State → State} (hc : s.configured = true) (hf : Unrefused (first s)) :
    Unrefused (admitted first s) :=
  admitted_configured hc ▸ hf

theorem firstStep_unrefused (i : Instr) (hc : s.configured = true) : Unrefused (firstStep i s) := by
  cases i with
  | initBus => exact pinWrite_unrefused .csN true s .initSclk
  | select => exact admitted_unrefused hc (pinWrite_unrefused .csN false s .acknowledge)
  | deselect => exact admitted_unrefused hc (pinWrite_unrefused .csN true s .acknowledge)
  | xchg out => exact admitted_unrefused hc (beginExchange_unrefused out .raw s)
  | sendCmd cmd arg crc win => exact admitted_unrefused hc (enterCommand_unrefused .host _ s)
  | cardInit => exact admitted_unrefused hc (pinWrite_unrefused .csN true _ .prefixStart)
  | fill => exact admitted_unrefused hc (beginExchange_unrefused filler .raw s)
  | goIdleState => exact admitted_unrefused hc (enterCommand_unrefused .host _ s)
  | sendOpCond => exact admitted_unrefused hc (enterCommand_unrefused .host _ s)
  | setBlocklen n => exact admitted_unrefused hc (enterCommand_unrefused .host _ s)

/-- A completion right after acceptance changes the handshake registers and the history only. -/
theorem complete_at_start (st : Status) (data : Byte) (hp : s.point = .start) :
    complete st data s = { s with
      resp := response st data, respValid := true, ctl := .idle, trace := .complete (response st data) :: s.trace } := by
  rw [hp]
  rfl

theorem response_of_complete {st : Status} {data : Byte} {r : Half}
    (h : (complete st data s).trace = .complete r :: s.trace) : r = response st data :=
  (Event.complete.inj (List.cons.inj h).1).symm

/-- Every completion of a running request: one of the two refusals of the admission check, or OK or TIMEOUT. -/
theorem HandshakeInv.completion_cases {op : Byte} {r : Half} (hi : HandshakeInv s) (hr : s.resetLine = false)
    (hc : s.ctl = .busy op) (h : step s = .next t) (ht : t.trace = .complete r :: s.trace) :
    (s.point = .start ∧ (∃ e, decode s.req = .error e) ∧ r = response .illegal 0) ∨
    (s.point = .start ∧ s.configured = false ∧ op ≠ 0x01#8 ∧ r = response .notConfigured 0) ∨
    r.extractLsb' 8 8 ∈ [0x00#8, 0x03#8] := by
  rcases step_cases h with ⟨hr', _⟩ | ⟨_, hx, _⟩ | ⟨_, hx, _⟩ |
    ⟨_, _, _, ⟨e, hd, rfl⟩ | ⟨i, hd, hp, rfl⟩ | ⟨_, g, _, _, rfl⟩⟩
  · simp [hr] at hr'
  · simp [hc] at hx
  · simp [hc] at hx
  · exact .inl ⟨hi.point_of_illegal hc hd, ⟨e, hd⟩, response_of_complete ht⟩
  · cases hconf : s.configured with
    | true => exact .inr (.inr ((firstStep_unrefused i hconf).status ht))
    | false =>
      by_cases hbus : i = .initBus
      · subst hbus
        exact .inr (.inr ((pinWrite_unrefused .csN true s .initSclk).status ht))
      · have hop : i.opcode = op := (decode_opcode hd).trans (hi.of_busy hc).2.symm
        rw [firstStep_unconfigured hbus hconf] at ht
        exact .inr (.inl ⟨hp, rfl, hop ▸ mt eq_initBus_of_opcode hbus, response_of_complete ht⟩)
  · exact .inr (.inr ((resume_unrefused g s).status ht))

end

/-- Settles O14: a word that is no request is refused by the step that decodes it, right after acceptance; of all completions
(`HandshakeInv.completion_cases`) only that one has status 0x01. -/
theorem illegalOnlyByAdmission : Obligations.IllegalOnlyByAdmission := by
  refine ⟨fun s op e hr hc hp hd => ?_, fun s t op r hi hr hc h ht hst => ?_⟩
  · exact (step_of_illegal hr hc hd).trans (congrArg _ (complete_at_start .illegal 0 hp))
  · rcases hi.completion_cases hr hc h ht with hillegal | ⟨_, _, _, rfl⟩ | hstatus
    · exact hillegal
    · exact absurd hst (by decide)
    · rw [hst] at hstatus
      exact absurd hstatus (by decide)

/-- Settles O15: each request but INIT_BUS begins with the check of `configured` (`firstStep_unconfigured`); of all completions
only its refusal has status 0x02. -/
theorem notConfiguredOnlyByAdmission : Obligations.NotConfiguredOnlyByAdmission := by
  refine ⟨fun i s hop hp hc => ?_, fun s t op r hi hr hc h ht hst => ?_⟩
  · have hbus : i ≠ .initBus := fun h => hop (h ▸ rfl)
    rw [exec_at_start i hp, firstStep_unconfigured hbus hc, complete_at_start .notConfigured 0 hp]
    rfl
  · rcases hi.completion_cases hr hc h ht with ⟨_, _, rfl⟩ | ⟨hp, hconf, hop, _⟩ | hstatus
    · exact absurd hst (by decide)
    · exact ⟨hp, hconf, hop⟩
    · rw [hst] at hstatus
      exact absurd hstatus (by decide)

end Sys2Proof.Machine
end

section
/-! The hang of a wait with no limit (60_exceptions.md R216, 40_transport.md R117): every step is one more poll. -/

namespace Sys2Proof.Machine

/-- The running request polls XFER_DONE with no limit, and it never reads 1. -/
structure Hanging (s : State) : Prop where
  resetLine : s.resetLine = false
  running : ∃ op i, s.ctl = .busy op ∧ decode s.req = .ok i
  unlimited : s.cfg.pollLimit = none
  never : DoneNever s
  polling : ∃ site, s.point = .within (.xfer .poll site) ∨ (s.point = .within (.xfer .repoll site) ∧ s.eng = .poll)

theorem DoneNever.reads_low {s : State} (h : DoneNever s) : inputLevel .xferDone s = false :=
  (State.doneAfter_zero s).symm.trans (h 0)

/-- One more poll that read 0. -/
def hungPoll (site : Site) (s : State) : State := (pinRead .xferDone { s with eng := .poll }).goto (.xfer .repoll site)

theorem Hanging.step_eq {s : State} (h : Hanging s) : ∃ site, step s = .next (hungPoll site s) := by
  obtain ⟨hr, ⟨op, i, hc, hd⟩, hl, hn, site, hp⟩ := h
  have low : pollDone site { s with eng := .poll } = hungPoll site s :=
    pollDone_low (s := { s with eng := .poll }) hn.reads_low
  refine ⟨site, (step_of_busy hr hc hd).trans ?_⟩
  rcases hp with hp | ⟨hp, heng⟩
  · exact (exec_within i hp).trans (congrArg _ ((beginWait_unbounded hl).trans low))
  · have same : { s with eng := .poll } = s := by rw [← heng]
    exact (exec_within i hp).trans (congrArg _ ((pollAgain_unbounded hl).trans (same ▸ low)))

theorem hungPoll_trace {s : State} (h : DoneNever s) (site : Site) :
    (hungPoll site s).trace = .sample .xferDone false :: s.trace := by
  rw [← h.reads_low]
  rfl

theorem Hanging.hungPoll {s : State} (h : Hanging s) (site : Site) : Hanging (hungPoll site s) where
  resetLine := h.resetLine
  running := h.running
  unlimited := h.unlimited
  never m := (doneAfter_pinRead (s := { s with eng := .poll }) m h.never.reads_low).trans (h.never (m + 1))
  polling := ⟨site, .inr ⟨rfl, rfl⟩⟩

theorem Hanging.run {s : State} (h : Hanging s) (n : Nat) :
    ∃ t, run n s = .next t ∧ Hanging t ∧ t.respValid = s.respValid ∧ t.resp = s.resp ∧ (n ≠ 0 → t.eng = .poll) ∧
      t.trace = List.replicate n (.sample .xferDone false) ++ s.trace := by
  induction n with
  | zero => exact ⟨s, rfl, h, rfl, rfl, fun hn => absurd rfl hn, rfl⟩
  | succ n ih =>
    obtain ⟨t, hrun, ht, hvalid, hresp, _, htrace⟩ := ih
    obtain ⟨site, hstep⟩ := ht.step_eq
    refine ⟨_, (run_add hrun).trans (run_succ hstep), ht.hungPoll site, hvalid, hresp, fun _ => rfl, ?_⟩
    rw [hungPoll_trace ht.never, htrace]
    rfl

theorem Hanging.busy {s : State} (h : Hanging s) : s.busy = true := by
  obtain ⟨_, _, hc, _⟩ := h.running
  simp only [State.busy, hc]

/-- Settles O26: a poll that reads 0 leads to the next one, the handshake registers untouched (`Hanging.run`). -/
theorem hangNeverCompletes : Obligations.HangNeverCompletes := by
  intro s op i site hr hc hd hl hn hp n
  have hang : Hanging s := ⟨hr, ⟨op, i, hc, hd⟩, hl, hn, site, hp⟩
  obtain ⟨t, hrun, ht, hrest⟩ := hang.run n
  exact ⟨t, hrun, ht.busy, hrest⟩

end Sys2Proof.Machine
end

section
/-! That no step stops the machine (60_exceptions.md R210), and the codes its outcomes are reported with (R237). -/

namespace Sys2Proof.Machine

theorem exec_next (i : Instr) (s : State) : ∃ t, exec i s = .next t := by
  cases hp : s.point with
  | start => exact ⟨_, exec_at_start i hp⟩
  | within g => exact ⟨_, exec_within i hp⟩

/-- Settles O9: a step is the reset event, an idle block's, a refusal, or its request's instruction (`exec_next`). -/
theorem nothingStopsTheMachine : Obligations.NothingStopsTheMachine := by
  refine ⟨fun s => ?_, exec_next⟩
  cases hr : s.resetLine with
  | true => exact ⟨_, step_of_reset hr⟩
  | false =>
    cases hc : s.ctl with
    | idle => exact ⟨_, step_of_idle hr hc⟩
    | busy op =>
      cases hd : decode s.req with
      | error e => exact ⟨_, step_of_illegal hr hc hd⟩
      | ok i => exact step_of_busy hr hc hd ▸ exec_next i s

theorem InitOutcome.toInt_byte (o : InitOutcome) : o.byte.toInt = o.code := by
  cases o <;> rfl

/-- Settles O59: the table of R237 row by row, and each code read back from its byte (`InitOutcome.toInt_byte`). -/
theorem outcomeCodes : Obligations.OutcomeCodes :=
  ⟨rfl, rfl, rfl, rfl, rfl, rfl, rfl, rfl, rfl, rfl, InitOutcome.toInt_byte⟩

end Sys2Proof.Machine
end

section
/-! The reset event (70_reset_and_hazards.md R240), and chip-select at the end of SEND_CMD and CARD_INIT (R253 (a),
41_command_channel.md R151): a place from which such a request can complete has released the card, and the steps from the
other places go on. -/

namespace Sys2Proof.Machine

/-- Settles O12: `resetEvent` is `State.reset` with what is not the block's put back. -/
theorem resetEventClearsTheBlock : Obligations.ResetEventClearsTheBlock := fun s hr =>
  ⟨resetEvent s, step_of_reset hr, rfl, rfl, rfl, rfl, rfl, rfl, rfl, rfl, rfl, rfl, rfl, rfl, rfl, rfl, rfl, rfl, rfl⟩

/-! ### The operations that go on -/

theorem engineStep_ctl (x : XferStep) (site : Site) (s : State) : (engineStep x site s).ctl = s.ctl := by
  cases x with
  | rise => rfl
  | settle => rfl
  | poll => rfl
  | repoll => exact pollAgain_cases (P := fun t => t.ctl = s.ctl) (fun _ => rfl) (fun _ _ _ => rfl) (fun _ _ _ => rfl)
  | sample => rfl
  | fall => rfl

@[simp] theorem windowLoop_ctl (c : Caller) (s : State) : (windowLoop c s).ctl = s.ctl :=
  windowLoop_cases (P := fun t => t.ctl = s.ctl) (fun _ => rfl) (fun _ => rfl)

@[simp] theorem scanByte_ctl (c : Caller) (s : State) : (scanByte c s).ctl = s.ctl :=
  windowLoop_ctl c { s with chan := _ }

/-- An exchange of a command's frame or window is followed by more of the command. -/
theorem bitDone_inCommand_ctl {c : Caller} {site : Site} (hsite : site ∈ [.frame c, .window c]) (s : State) :
    (bitDone site s).ctl = s.ctl := by
  refine bitDone_cases (P := fun t => t.ctl = s.ctl) (fun _ => rfl) (fun _ => ?_)
  simp only [List.mem_cons, List.not_mem_nil, or_false] at hsite
  rcases hsite with rfl | rfl
  · exact frameByteDone_cases (P := fun t => t.ctl = s.ctl) (fun _ => rfl)
      (fun _ => windowLoop_ctl c { s with eng := .idle, chan := _ })
  · exact emitThen_cases (P := fun t => t.ctl = s.ctl) (fun _ => rfl) (fun _ => scanByte_ctl c { s with eng := .idle })

/-! ### The end of a command -/

theorem PlaceBus.csN {v : Bool} {s : State} (h : PlaceBus v s) : s.csN = .driven v := by
  obtain ⟨_, _, _, hcs⟩ := h
  exact hcs

/-- Where a place of SEND_CMD or CARD_INIT leads: the card is released there, or the step from it completes nothing. -/
theorem Seg.released_or_goesOn {g : Seg} {op : Byte} {s : State} (hop : op = 0x05#8 ∨ op = 0x06#8) (hg : g.belongsTo op)
    (hb : g.bus s) : s.csN = .driven true ∨ (resume g s).ctl = s.ctl := by
  have other {o : Byte} (ho : o ≠ 0x05#8 ∧ o ≠ 0x06#8) (h : op = o) :
      s.csN = .driven true ∨ (resume g s).ctl = s.ctl := by
    subst h
    exact absurd hop (not_or.mpr ho)
  cases g with
  | initSclk => exact other (by decide) hg
  | initMosi => exact other (by decide) hg
  | initDone => exact other (by decide) hg
  | acknowledge => exact hg.elim (other (by decide)) (other (by decide))
  | xfer x site => exact .inr (engineStep_ctl x site s)
  | fallen site =>
    cases site with
    | raw => exact other (by decide) hg
    | prefixByte =>
      obtain ⟨_, _, _, _, hcs⟩ := hb
      exact .inl hcs
    | frame c => exact .inr (bitDone_inCommand_ctl (c := c) (by simp) s)
    | window c => exact .inr (bitDone_inCommand_ctl (c := c) (by simp) s)
  | timedOut site =>
    cases site with
    | raw => exact other (by decide) hg
    | prefixByte => exact .inr rfl
    | frame c => exact .inr rfl
    | window c => exact .inr rfl
  | announced c => exact .inr rfl
  | selected c => exact .inr rfl
  | mirrored c => exact .inr (scanByte_ctl c s)
  | released c => exact .inl (PlaceBus.csN hb)
  | ended c => exact .inl (PlaceBus.csN hb)
  | aborted c => exact .inl (PlaceBus.csN hb)
  | prefixStart => exact .inl (PlaceBus.csN hb)
  | idleBackedOff => exact .inl (PlaceBus.csN hb)
  | opcondBackedOff => exact .inl (PlaceBus.csN hb)
  | reported r => exact .inl (PlaceBus.csN hb)
  | abandoned => exact .inl (PlaceBus.csN hb)

/-- Settles O39: a completion changes no level, and the place it completes from has released the card
(`Seg.released_or_goesOn`). -/
theorem commandsEndDeselected : Obligations.CommandsEndDeselected := by
  intro s t op g hi hb hr hc hop hp h hend
  obtain ⟨hg, i, hd⟩ := hi.of_within hc hp
  obtain rfl : resume g s = t :=
    Host.Outcome.next.inj (((step_of_busy hr hc hd).trans (exec_within i hp)).symm.trans h)
  have stops : (resume g s).ctl ≠ s.ctl := by simp [hend, hc]
  rcases hi.step_goes hr hc h with ⟨⟨hctl, _⟩, _⟩ | ⟨_, _, _, _, _, _, _, _, hlevel⟩
  · exact absurd hctl stops
  · exact (hlevel .csN).trans ((g.released_or_goesOn hop hg (hb.at_place hp)).resolve_right stops)

end Sys2Proof.Machine
end

section
/-! The work left to a request at each place of its sequence, as a number, and that every operation leaves less of it: the
countdowns of the bits, the frame, the window and CARD_INIT's fillers go down, and each retry loop uses up an attempt
(40_transport.md R116, 41_command_channel.md R143, 42_card_init.md R185). Only a poll that reads 0 leaves as much. -/

namespace Sys2Proof.Machine

/-! ### The work left -/

/-- The primitives of a bit still to come (R116). -/
def XferStep.left : XferStep → Nat
  | .rise => 6
  | .settle => 5
  | .poll => 4
  | .repoll => 3
  | .sample => 2
  | .fall => 1

/-- More than one call of `SendCommand` takes up to its release of the card: 6 frame bytes of 56 places each and at most 255
window bytes of 57 (R143). -/
def callWork : Nat := 15000

/-- The attempts a retry loop can still begin. The loop ends where `attempt` meets the limit, and `attempt` has 4 bits: the
distance wraps around, and is at most 15. -/
def retriesLeft (limit attempt : BitVec 4) : Nat := (limit - attempt).toNat

/-- The work left once a call of `SendCommand` has returned: the rest of its retry loop and what follows that loop (R185). After
the idle loop come at most 16 calls of the op-cond loop, and after that loop SET_BLOCKLEN's. -/
def Caller.rest (s : State) : Caller → Nat
  | .host => 0
  | .idle => callWork * (17 + retriesLeft s.cfg.idleRetryLimit s.attempt)
  | .opcond => callWork * (1 + retriesLeft s.cfg.opcondRetryLimit s.attempt)
  | .blocklen => 0

/-- The work left once CARD_INIT has sent its fillers: at most 16 calls in each loop, and SET_BLOCKLEN's. -/
def loopsWork : Nat := callWork * 33

/-- The work left once an exchange has returned, by the countdown it belongs to. An exchange has 8 bits of 7 places each; a window
byte has one more place, after its `DiagResp`. -/
def Site.rest (s : State) : Site → Nat
  | .raw => 0
  | .prefixByte => 56 * s.prefixLeft.toNat + loopsWork
  | .frame c => 56 * (5 - s.chan.frameIdx.val) + 57 * 256 + 2 + c.rest s
  | .window c => 57 * s.chan.winLeft.toNat + 2 + c.rest s

/-- The work left at a place. -/
def Seg.work (s : State) : Seg → Nat
  | .initSclk => 2
  | .initMosi => 1
  | .initDone => 0
  | .acknowledge => 0
  | .xfer x site => 7 * s.bitIdx.val + x.left + site.rest s
  | .fallen site => 7 * s.bitIdx.val + site.rest s
  | .timedOut site => 7 * s.bitIdx.val + site.rest s
  | .announced c => 56 * 6 + 57 * 256 + 3 + c.rest s
  | .selected c => 56 * 6 + 57 * 256 + 2 + c.rest s
  | .mirrored c => 57 * s.chan.winLeft.toNat + 1 + c.rest s
  | .released c => 2 + c.rest s
  | .ended c => 1 + c.rest s
  | .aborted c => 1 + c.rest s
  | .prefixStart => 56 * 256 + loopsWork
  | .idleBackedOff => Caller.idle.rest s
  | .opcondBackedOff => Caller.opcond.rest s
  | .reported _ => 0
  | .abandoned => 0

/-- The work left to the running request. -/
def State.work (s : State) : Nat :=
  match s.point with
  | .start => 56 * 256 + loopsWork + 1
  | .within g => g.work s

theorem State.work_start {s : State} (h : s.point = .start) : s.work = 56 * 256 + loopsWork + 1 := by
  simp only [State.work, h]

theorem State.work_within {s : State} {g : Seg} (h : s.point = .within g) : s.work = g.work s := by
  simp only [State.work, h]

/-- From `s` the request has completed in `t` or has less than `b` work left there; reset is asserted as before. -/
def Nears (b : Nat) (s t : State) : Prop := t.resetLine = s.resetLine ∧ (t.ctl = .idle ∨ t.work < b)

section

variable {s t : State} {b : Nat}

theorem Nears.mono {b' : Nat} (h : Nears b s t) (hb : b ≤ b') : Nears b' s t :=
  ⟨h.1, h.2.imp_right (lt_of_lt_of_le · hb)⟩

theorem nears_of_place {g : Seg} (hp : t.point = .within g) (hr : t.resetLine = s.resetLine) (hw : g.work t < b) :
    Nears b s t :=
  ⟨hr, .inr (State.work_within hp ▸ hw)⟩

/-! ### The attempts of a retry loop -/

theorem retriesLeft_le (limit attempt : BitVec 4) : retriesLeft limit attempt ≤ 15 := by
  unfold retriesLeft
  omega

/-- One attempt more is one retry fewer, short of the limit. -/
theorem retriesLeft_succ {limit attempt : BitVec 4} (h : attempt ≠ limit) :
    retriesLeft limit (attempt + 1) + 1 = retriesLeft limit attempt := by
  unfold retriesLeft
  bv_omega

/-! ### The handshake and Emit -/

theorem complete_nears (st : Status) (data : Byte) (s : State) : Nears b s (complete st data s) := ⟨rfl, .inl rfl⟩

theorem conclude_nears (st : Status) (o : InitOutcome) (s : State) : Nears b s (conclude st o s) := ⟨rfl, .inl rfl⟩

theorem emitThen_nears {d : Diag} {g : Seg} {k : State → State} (hg : g.work s < b) (hk : Nears b s (k s)) :
    Nears b s (emitThen d g k s) :=
  emitThen_cases (fun _ => nears_of_place rfl rfl hg) (fun _ => hk)

/-! ### The bit engine -/

theorem driveBit_nears (i : Fin 8) (site : Site) (s : State) :
    Nears (7 * (i.val + 1) + site.rest s) s (driveBit i site s) := by
  refine nears_of_place rfl rfl ?_
  show 7 * i.val + 6 + site.rest s < _
  omega

theorem beginExchange_nears (out : Byte) (site : Site) (s : State) :
    Nears (56 + site.rest s) s (beginExchange out site s) :=
  driveBit_nears 7 site { s with txSr := out }

/-- Within a bit, from before one primitive to before a later one. -/
theorem nears_of_bit {x y : XferStep} {site : Site} (hp : t.point = .within (.xfer y site))
    (hr : t.resetLine = s.resetLine) (hw : (Seg.xfer y site).work t = (Seg.xfer y site).work s) (hxy : y.left < x.left) :
    Nears ((Seg.xfer x site).work s) s t := by
  refine nears_of_place hp hr (hw ▸ ?_)
  simp only [Seg.work]
  omega

theorem beginWait_nears (site : Site) (s : State) : Nears ((Seg.xfer .poll site).work s) s (beginWait site s) :=
  pollDone_cases (s := { s with eng := .poll, pollCnt := _ }) (P := Nears _ s)
    (fun _ => nears_of_bit rfl rfl rfl (by decide)) (fun _ => nears_of_bit rfl rfl rfl (by decide))

/-- Every primitive of a bit but a later poll (R116). -/
theorem engineStep_nears {x : XferStep} (hx : x ≠ .repoll) (site : Site) (s : State) :
    Nears ((Seg.xfer x site).work s) s (engineStep x site s) := by
  cases x with
  | rise => exact nears_of_bit (y := .settle) rfl rfl rfl (by decide)
  | settle => exact nears_of_bit (y := .poll) rfl rfl rfl (by decide)
  | poll => exact beginWait_nears site s
  | repoll => exact absurd rfl hx
  | sample => exact nears_of_bit (y := .fall) rfl rfl rfl (by decide)
  | fall =>
    refine nears_of_place rfl rfl ?_
    show 7 * s.bitIdx.val + site.rest s < 7 * s.bitIdx.val + 1 + site.rest s
    omega

theorem giveUp_nears (site : Site) (s : State) : Nears ((Seg.timedOut site).work s) s (giveUp site s) := by
  cases site with
  | raw => exact complete_nears .timeout 0 _
  | prefixByte =>
    refine nears_of_place rfl rfl ?_
    simp only [Seg.work, Site.rest, loopsWork, callWork]
    omega
  | frame c =>
    refine nears_of_place rfl rfl ?_
    show 1 + c.rest s < 7 * s.bitIdx.val + (56 * (5 - s.chan.frameIdx.val) + 57 * 256 + 2 + c.rest s)
    omega
  | window c =>
    refine nears_of_place rfl rfl ?_
    show 1 + c.rest s < 7 * s.bitIdx.val + (57 * s.chan.winLeft.toNat + 2 + c.rest s)
    omega

/-- A command's timeout leads to the end of the request (R143, 42_card_init.md R188). -/
theorem reraise_nears (c : Caller) (s : State) : Nears (1 + c.rest s) s (reraise c s) := by
  cases c with
  | host => exact complete_nears .timeout 0 _
  | idle => exact nears_of_place rfl rfl (Nat.add_pos_left Nat.one_pos _)
  | opcond => exact nears_of_place rfl rfl (Nat.add_pos_left Nat.one_pos _)
  | blocklen => exact nears_of_place rfl rfl (Nat.add_pos_left Nat.one_pos _)

/-! ### The command channel -/

theorem selectCard_nears (c : Caller) (s : State) : Nears ((Seg.announced c).work s) s (selectCard c s) :=
  nears_of_place rfl rfl (show 56 * 6 + 57 * 256 + 2 + c.rest s < 56 * 6 + 57 * 256 + 3 + c.rest s by omega)

theorem enterCommand_nears (c : Caller) (k : Command) (s : State) :
    Nears (callWork + c.rest s) s (enterCommand c k s) := by
  have announced : (Seg.announced c).work s < callWork + c.rest s := by
    simp only [Seg.work, callWork]
    omega
  exact emitThen_nears (s := latch k s) announced ((selectCard_nears c (latch k s)).mono announced.le)

theorem sendFrameByte_nears (k : Fin 6) (c : Caller) (s : State) :
    Nears (56 * (6 - k.val) + 57 * 256 + 2 + c.rest s) s (sendFrameByte k c s) := by
  refine (beginExchange_nears _ (.frame c) { s with chan := { s.chan with frameIdx := k } }).mono ?_
  show 56 + (56 * (5 - k.val) + 57 * 256 + 2 + c.rest s) ≤ _
  omega

/-- The window from its head on, the byte about to be sent included. -/
theorem windowLoop_nears (c : Caller) (s : State) :
    Nears (57 * (s.chan.winLeft.toNat + 1) + 1 + c.rest s) s (windowLoop c s) := by
  refine windowLoop_cases (P := Nears _ s) (fun _ => ?_) (fun _ => ?_)
  · refine (beginExchange_nears filler (.window c) s).mono ?_
    simp only [Site.rest]
    omega
  · refine nears_of_place rfl rfl ?_
    show 2 + c.rest s < _
    omega

theorem frameByteDone_nears (c : Caller) (s : State) : Nears ((Site.frame c).rest s) s (frameByteDone c s) := by
  refine frameByteDone_cases (P := Nears _ s) (fun hk => ?_) (fun _ => ?_)
  · have next : (s.chan.frameIdx + 1).val = s.chan.frameIdx.val + 1 := by
      have := s.chan.frameIdx.isLt
      omega
    refine (sendFrameByte_nears _ c s).mono ?_
    simp only [Site.rest, next]
    omega
  · refine (windowLoop_nears c { s with chan := _ }).mono ?_
    show 57 * (s.chan.fWin.toNat + 1) + 1 + c.rest s ≤ 56 * (5 - s.chan.frameIdx.val) + 57 * 256 + 2 + c.rest s
    have := s.chan.fWin.isLt
    omega

/-- The byte scanned is one window byte fewer. -/
theorem scanByte_nears {c : Caller} {s : State} (hw : s.chan.winLeft ≠ 0) :
    Nears ((Seg.mirrored c).work s) s (scanByte c s) := by
  refine (windowLoop_nears c { s with chan := _ }).mono ?_
  show 57 * ((s.chan.winLeft - 1).toNat + 1) + 1 + c.rest s ≤ 57 * s.chan.winLeft.toNat + 1 + c.rest s
  bv_omega

theorem windowByteDone_nears {c : Caller} {s : State} (hw : s.chan.winLeft ≠ 0) :
    Nears ((Site.window c).rest s) s (windowByteDone c s) :=
  have mirrored : (Seg.mirrored c).work s < (Site.window c).rest s := by
    simp only [Seg.work, Site.rest]
    omega
  emitThen_nears mirrored ((scanByte_nears hw).mono mirrored.le)

/-! ### The card initialiser -/

theorem idleAttempt_nears (s : State) :
    Nears (callWork * (18 + retriesLeft s.cfg.idleRetryLimit (s.attempt + 1))) s (idleAttempt s) := by
  refine (enterCommand_nears .idle _ { s with initPhase := .idleCmd, attempt := s.attempt + 1 }).mono ?_
  simp only [Caller.rest, callWork]
  omega

theorem opcondAttempt_nears (s : State) :
    Nears (callWork * (2 + retriesLeft s.cfg.opcondRetryLimit (s.attempt + 1))) s (opcondAttempt s) := by
  refine (enterCommand_nears .opcond _ { s with initPhase := .opcondCmd, attempt := s.attempt + 1 }).mono ?_
  simp only [Caller.rest, callWork]
  omega

theorem sendBlocklen_nears (s : State) : Nears callWork s (sendBlocklen s) :=
  enterCommand_nears .blocklen _ { s with initPhase := .blocklen }

theorem prefixLoop_nears (s : State) : Nears (56 * (s.prefixLeft.toNat + 1) + loopsWork) s (prefixLoop s) := by
  refine prefixLoop_cases (P := Nears _ s) (fun _ => ?_) (fun _ => ?_)
  · refine (beginExchange_nears filler .prefixByte s).mono ?_
    simp only [Site.rest]
    omega
  · refine (idleAttempt_nears { s with attempt := 0 }).mono ?_
    have := retriesLeft_le s.cfg.idleRetryLimit (0 + 1)
    simp only [loopsWork, callWork]
    omega

theorem prefixByteDone_nears {s : State} (hp : s.prefixLeft ≠ 0) :
    Nears (Site.prefixByte.rest s) s (prefixByteDone s) := by
  refine (prefixLoop_nears { s with prefixLeft := s.prefixLeft - 1 }).mono ?_
  simp only [Site.rest]
  bv_omega

/-- The op-cond loop begins after the idle loop: less work than the idle loop had left (R176). -/
theorem idleResult_nears (r : Byte) (s : State) : Nears (1 + Caller.idle.rest s) s (idleResult r s) := by
  refine idleResult_cases (P := Nears _ s) ?_ ?_
  · refine (opcondAttempt_nears { s with attempt := 0 }).mono ?_
    have := retriesLeft_le s.cfg.opcondRetryLimit (0 + 1)
    simp only [Caller.rest, callWork]
    omega
  · exact nears_of_place rfl rfl (Nat.lt_add_of_pos_left Nat.one_pos)

theorem opcondResult_nears (r : Byte) (s : State) : Nears (1 + Caller.opcond.rest s) s (opcondResult r s) := by
  refine opcondResult_cases (P := Nears _ s) ?_ ?_
  · refine (sendBlocklen_nears s).mono ?_
    simp only [Caller.rest, callWork]
    omega
  · exact nears_of_place rfl rfl (Nat.lt_add_of_pos_left Nat.one_pos)

theorem idleRetry_nears (s : State) : Nears (Caller.idle.rest s) s (idleRetry s) := by
  refine idleRetry_cases (P := Nears _ s) (fun _ => conclude_nears .ok .idleExhausted s) (fun hne => ?_)
  refine (idleAttempt_nears s).mono (Nat.mul_le_mul_left callWork ?_)
  have := retriesLeft_succ hne
  omega

theorem opcondRetry_nears (s : State) : Nears (Caller.opcond.rest s) s (opcondRetry s) := by
  refine opcondRetry_cases (P := Nears _ s) (fun _ => conclude_nears .ok .opcondExhausted s) (fun hne => ?_)
  refine (opcondAttempt_nears s).mono (Nat.mul_le_mul_left callWork ?_)
  have := retriesLeft_succ hne
  omega

theorem judgeBlocklen_nears (r : Byte) (s : State) : Nears b s (judgeBlocklen r s) := by
  rw [judgeBlocklen_eq]
  exact conclude_nears .ok _ s

theorem commandEnded_nears (c : Caller) (s : State) : Nears (1 + c.rest s) s (commandEnded c s) := by
  cases c with
  | host => exact complete_nears .ok _ (forgetChannel s)
  | idle => exact idleResult_nears _ (forgetChannel s)
  | opcond => exact opcondResult_nears _ (forgetChannel s)
  | blocklen => exact emitThen_nears (s := forgetChannel s) (g := .reported _) Nat.one_pos (judgeBlocklen_nears _ _)

/-! ### The sequencer and the requests' beginnings -/

/-- The counts that allow an exchange (`Site.sends`) are what its return counts down. -/
theorem exchangeReturned_nears {site : Site} {s : State} (h : site.sends s) :
    Nears (site.rest s) s (exchangeReturned site s) := by
  cases site with
  | raw => exact complete_nears .ok _ s
  | prefixByte =>
    obtain ⟨_, hp, _⟩ := h
    exact prefixByteDone_nears hp
  | frame c => exact frameByteDone_nears c s
  | window c =>
    obtain ⟨_, _, hw, _⟩ := h
    exact windowByteDone_nears hw

theorem bitDone_nears {site : Site} {s : State} (h : site.sends s) :
    Nears ((Seg.fallen site).work s) s (bitDone site s) := by
  refine bitDone_cases (P := Nears _ s) (fun hi => ?_) (fun _ => ?_)
  · refine (driveBit_nears _ site s).mono ?_
    simp only [Seg.work]
    omega
  · refine (exchangeReturned_nears (s := { s with eng := .idle }) h).mono ?_
    exact Nat.le_add_left (site.rest s) _

/-- Every step of a request leaves less work than its place, but for a bit's later polls. -/
theorem resume_nears {g : Seg} {s : State} (h : g.transfer s) (hg : ∀ site, g ≠ .xfer .repoll site) :
    Nears (g.work s) s (resume g s) := by
  cases g with
  | initSclk => exact nears_of_place rfl rfl (show 1 < 2 by omega)
  | initMosi => exact nears_of_place rfl rfl (show 0 < 1 by omega)
  | initDone => exact complete_nears .ok 0 { s with configured := true }
  | acknowledge => exact complete_nears .ok 0 s
  | xfer x site => exact engineStep_nears (fun hx => hg site (hx ▸ rfl)) site s
  | fallen site => exact bitDone_nears h
  | timedOut site => exact giveUp_nears site s
  | announced c => exact selectCard_nears c s
  | selected c => exact sendFrameByte_nears 0 c s
  | mirrored c =>
    obtain ⟨_, hw, _⟩ := h
    exact scanByte_nears hw
  | released c =>
    refine emitThen_nears (g := .ended c) ?_ ((commandEnded_nears c s).mono ?_)
    · simp only [Seg.work]
      omega
    · simp only [Seg.work]
      omega
  | ended c => exact commandEnded_nears c s
  | aborted c => exact reraise_nears c s
  | prefixStart =>
    refine (prefixLoop_nears { s with prefixLeft := s.cfg.prefixBytes }).mono ?_
    simp only [Seg.work]
    omega
  | idleBackedOff => exact idleRetry_nears s
  | opcondBackedOff => exact opcondRetry_nears s
  | reported r => exact judgeBlocklen_nears r s
  | abandoned => exact conclude_nears .timeout .timedOut s

theorem admitted_nears {first : State → State} (hf : Nears b s (first s)) : Nears b s (admitted first s) :=
  admitted_cases (fun _ => hf) (fun _ => complete_nears .notConfigured 0 s)

/-- A request's beginning leads to a place, and CARD_INIT's to the one with the most work left. -/
theorem firstStep_nears {i : Instr} {s : State} (hp : s.point = .start) : Nears s.work s (firstStep i s) := by
  have command (k : Command) : Nears (56 * 256 + loopsWork + 1) s (admitted (enterCommand .host k) s) :=
    admitted_nears ((enterCommand_nears .host k s).mono (show callWork + 0 ≤ 56 * 256 + loopsWork + 1 by decide))
  have exchange (out : Byte) : Nears (56 * 256 + loopsWork + 1) s (admitted (beginExchange out .raw) s) :=
    admitted_nears ((beginExchange_nears out .raw s).mono (show 56 + 0 ≤ 56 * 256 + loopsWork + 1 by decide))
  rw [State.work_start hp]
  cases i with
  | initBus => exact nears_of_place rfl rfl (show 2 < 56 * 256 + loopsWork + 1 by decide)
  | select => exact admitted_nears (nears_of_place rfl rfl (Nat.succ_pos _))
  | deselect => exact admitted_nears (nears_of_place rfl rfl (Nat.succ_pos _))
  | xchg out => exact exchange out
  | sendCmd cmd arg crc win => exact command ⟨cmd, arg, crc, win⟩
  | cardInit => exact admitted_nears (nears_of_place rfl rfl (Nat.lt_succ_self _))
  | fill => exact exchange filler
  | goIdleState => exact command _
  | sendOpCond => exact command _
  | setBlocklen n => exact command _

/-- Every step of a running request leaves less work, or it is one of a bit's later polls. -/
theorem step_nears {op : Byte} (ht : TransferInv s) (hr : s.resetLine = false) (hc : s.ctl = .busy op)
    (h : step s = .next t) :
    Nears s.work s t ∨ ∃ site, s.point = .within (.xfer .repoll site) ∧ t = pollAgain site s := by
  rcases step_cases h with ⟨hr', _⟩ | ⟨_, hx, _⟩ | ⟨_, hx, _⟩ |
    ⟨_, _, _, ⟨_, _, rfl⟩ | ⟨i, _, hp, rfl⟩ | ⟨_, g, _, hp, rfl⟩⟩
  · simp [hr] at hr'
  · simp [hc] at hx
  · simp [hc] at hx
  · exact .inl (complete_nears .illegal 0 s)
  · exact .inl (firstStep_nears hp)
  · by_cases hg : ∃ site, g = .xfer .repoll site
    · obtain ⟨site, rfl⟩ := hg
      exact .inr ⟨site, hp, rfl⟩
    · exact .inl (State.work_within hp ▸ resume_nears (ht.at_place hp) (not_exists.mp hg))

end

end Sys2Proof.Machine
end

section
/-! Every request completes (70_reset_and_hazards.md R259): each wait ends, by XFER_DONE or at the poll limit, and between waits
the work left goes down (`step_nears`). -/

namespace Sys2Proof.Machine

variable {s t : State}

/-! ### The wait -/

/-- At most `m` more polls read 0 before the wait ends: XFER_DONE reads 1 after `m` zeros, or the count meets the limit
(40_transport.md R117, R118). -/
def PollsLeft (m : Nat) (s : State) : Prop :=
  s.doneAfter m = true ∨ ∃ n, s.cfg.pollLimit = some n ∧ s.pollCnt < n ∧ n ≤ s.pollCnt + m

/-- One more poll has read 0: the wait goes on with the same work left, for fewer polls. -/
def StillPolls (m : Nat) (s t : State) : Prop :=
  t.resetLine = s.resetLine ∧ t.work = s.work ∧ ∃ k < m, PollsLeft k t

/-- A later poll, its count at `c`: one that reads 1 ends the wait, one that reads 0 is one poll fewer. -/
theorem pollDone_waits {m c : Nat} {site : Site} (hp : s.point = .within (.xfer .repoll site))
    (hm : s.doneAfter m = true ∨ ∃ n, s.cfg.pollLimit = some n ∧ c < n ∧ n < c + m) :
    Nears s.work s (pollDone site { s with pollCnt := c }) ∨
      StillPolls m s (pollDone site { s with pollCnt := c }) := by
  rw [State.work_within hp]
  refine pollDone_cases (P := fun t => Nears _ s t ∨ StillPolls m s t) (fun _ => .inl ?_) (fun low => .inr ?_)
  · exact nears_of_bit (y := .sample) rfl rfl rfl (by decide)
  · have hpos : m ≠ 0 := by
      rintro rfl
      rcases hm with hdone | ⟨n, _, hlt, hn⟩
      · exact Bool.false_ne_true (low.symm.trans ((State.doneAfter_zero s).symm.trans hdone))
      · omega
    refine ⟨rfl, (State.work_within hp).symm, m - 1, by omega, hm.imp (fun hdone => ?_) ?_⟩
    · refine (doneAfter_pinRead (s := { s with pollCnt := c }) (m - 1) low).trans ?_
      rw [Nat.sub_add_cancel (by omega)]
      exact hdone
    · rintro ⟨n, hl, hlt, hn⟩
      exact ⟨n, hl, hlt, show n ≤ c + (m - 1) by omega⟩

theorem pollAgain_waits {m : Nat} {site : Site} (hp : s.point = .within (.xfer .repoll site)) (hm : PollsLeft m s) :
    Nears s.work s (pollAgain site s) ∨ StillPolls m s (pollAgain site s) := by
  refine pollAgain_cases (P := fun t => Nears _ s t ∨ StillPolls m s t) (fun hl => ?_) (fun n hl hn => ?_)
    (fun n hl hn => .inl ?_)
  · exact pollDone_waits (c := s.pollCnt) hp (hm.imp_right fun ⟨_, hsome, _⟩ => nomatch hl.symm.trans hsome)
  · refine pollDone_waits (c := s.pollCnt + 1) hp (hm.imp_right ?_)
    rintro ⟨n', hl', hlt, hle⟩
    obtain rfl : n = n' := Option.some.inj (hl.symm.trans hl')
    exact ⟨n, hl, by omega, by omega⟩
  · rw [State.work_within hp]
    refine nears_of_place rfl rfl ?_
    show 7 * s.bitIdx.val + site.rest s < 7 * s.bitIdx.val + 3 + site.rest s
    omega

/-! ### The running request -/

/-- A request runs, undisturbed by reset, and every wait of it will end: by `DoneLive` or by a poll limit (R251, R259). -/
structure Running (s : State) : Prop where
  valid : s.cfg.valid = true
  transfer : TransferInv s
  resetLine : s.resetLine = false
  busy : ∃ op, s.ctl = .busy op
  waitsEnd : DoneLive s ∨ s.cfg.pollLimit ≠ none

/-- At a later poll: with a limit the count is below it (`TransferInv`). -/
theorem Running.pollsLeft {site : Site} (h : Running s) (hp : s.point = .within (.xfer .repoll site)) :
    ∃ m, PollsLeft m s := by
  rcases h.waitsEnd with hlive | hlimit
  · obtain ⟨m, hm⟩ := hlive 0 s rfl ⟨site, .inr hp⟩
    exact ⟨m, .inl hm⟩
  · obtain ⟨n, hn⟩ := Option.ne_none_iff_exists'.mp hlimit
    obtain ⟨_, hcnt⟩ := h.transfer.at_place hp
    exact ⟨n, .inr ⟨n, hn, hcnt rfl n hn, Nat.le_add_left n _⟩⟩

/-- The end of a request: some number of steps on, a valid response, recorded last. -/
def Ends (s : State) : Prop :=
  ∃ n t, run n s = .next t ∧ t.ctl = .idle ∧ t.respValid = true ∧ ∃ es, t.trace = .complete t.resp :: es ++ s.trace

theorem Ends.step {e : Event} (h : step s = .next t) (he : t.trace = e :: s.trace) (ht : Ends t) : Ends s := by
  obtain ⟨n, u, hrun, hc, hv, es, htrace⟩ := ht
  exact ⟨n + 1, u, (run_succ h).trans hrun, hc, hv, es ++ [e], by simp [htrace, he]⟩

/-- A step of the request answers it, or the request runs on; it has ended if it ends from there. -/
theorem Running.ends_of_step (h : Running s) (hstep : step s = .next t) (hr : t.resetLine = s.resetLine)
    (next : Running t → t.ctl ≠ .idle → Ends t) : Ends s := by
  obtain ⟨op, hc⟩ := h.busy
  obtain ⟨_, ⟨hctl, _, _, _, _, _, _, _, e, he, _⟩ | ⟨hctl, _, _, hv, _, htrace, _⟩⟩ :=
    busy_step_goes h.resetLine hc hstep
  · have hcfg := (oneEventPerStep s t hstep).1
    have goesOn : Running t := {
      valid := hcfg ▸ h.valid
      transfer := stepKeepsTransferInv s t h.valid h.transfer hstep
      resetLine := hr.trans h.resetLine
      busy := ⟨op, hctl.trans hc⟩
      waitsEnd := h.waitsEnd.imp (fun live => live.run (n := 1) (run_succ hstep)) (hcfg ▸ ·) }
    exact (next goesOn (by simp [hctl, hc])).step hstep he
  · exact ⟨1, t, run_succ hstep, hctl, hv, [], htrace⟩

/-- One step with less work left, all requests with so little work ending. -/
theorem Running.ends_of_nears {b : Nat} (ih : ∀ u, Running u → u.work < b → Ends u) (h : Running s)
    (hstep : step s = .next t) (hn : Nears b s t) : Ends s := by
  obtain ⟨hr, hless⟩ := hn
  exact h.ends_of_step hstep hr fun goesOn hne => ih t goesOn (hless.resolve_left hne)

theorem Running.steps (h : Running s) :
    ∃ t, step s = .next t ∧
      (Nears s.work s t ∨ ∃ site, s.point = .within (.xfer .repoll site) ∧ t = pollAgain site s) := by
  obtain ⟨op, hc⟩ := h.busy
  obtain ⟨t, hstep⟩ := nothingStopsTheMachine.1 s
  exact ⟨t, hstep, step_nears h.transfer h.resetLine hc hstep⟩

/-- A wait ends: by induction on the polls left. -/
theorem Running.ends_of_wait {b m : Nat} (ih : ∀ u, Running u → u.work < b → Ends u) (h : Running s) (hb : s.work = b)
    (hm : PollsLeft m s) : Ends s := by
  induction m using Nat.strong_induction_on generalizing s with
  | _ m polls =>
    obtain ⟨t, hstep, hn | ⟨site, hp, rfl⟩⟩ := h.steps
    · exact h.ends_of_nears ih hstep (hb ▸ hn)
    · rcases pollAgain_waits hp hm with hn | ⟨hr, hwork, k, hk, hleft⟩
      · exact h.ends_of_nears ih hstep (hb ▸ hn)
      · exact h.ends_of_step hstep hr fun goesOn _ => polls k hk goesOn (hwork.trans hb) hleft

/-- Every running request ends: by induction on the work left. -/
theorem Running.ends (h : Running s) : Ends s := by
  induction hb : s.work using Nat.strong_induction_on generalizing s with
  | _ b less =>
    have ih (u : State) (hu : Running u) (hw : u.work < b) : Ends u := less u.work hw hu rfl
    obtain ⟨t, hstep, hn | ⟨site, hp, _⟩⟩ := h.steps
    · exact h.ends_of_nears ih hstep (hb ▸ hn)
    · obtain ⟨m, hm⟩ := h.pollsLeft hp
      exact h.ends_of_wait ih hb hm

/-- Settles O40: the work left goes down from step to step (`step_nears`), but for the polls of a wait, which ends. -/
theorem everyRequestCompletes : Obligations.EveryRequestCompletes :=
  fun _ op hv ht hr hc hw => Running.ends ⟨hv, ht, hr, ⟨op, hc⟩, hw⟩

end Sys2Proof.Machine
end
